-- ==== Sys2Proof/Word.lean ====
section
/-! DEFINITION. The words that cross the ports of the yas codec core and the values it computes with
(spec/30_encoding.md rules R90 to R95, spec/00_scope.md rule R11). -/

namespace Sys2Proof

/-- BYTE_BITS (R6): the bits of one raw byte. -/
abbrev byteBits : Nat := 8

/-- SYM_BITS (R6): the bits of one symbol value. -/
abbrev symBits : Nat := 6

/-- A raw byte, a character, or the byte of an output beat (R66, R94). -/
abbrev Byte := BitVec byteBits

/-- A 6-bit symbol value, 0 to 63: one quarter of a block (R12, "Symbol, sextet"). -/
abbrev Sextet := BitVec symBits

/-- Format CMD: the 13-bit command word (R91). -/
abbrev CmdWord := BitVec 13

/-- Format INBEAT: one 9-bit transfer on the input port (R93). -/
abbrev BeatWord := BitVec 9

/-- Format STATUS: the 13-bit status word (R36). -/
abbrev StatusWord := BitVec 13

/-- The values the parameter `WS_SET` ranges over (R8): a set of byte values, held as a list of which
only membership is ever read. -/
abbrev WsSet := List Byte

end Sys2Proof
end

