-- ==== Sys2Proof/Machine/Tables.lean ====
section
/-! DEFINITION. The constants of rule R6 and the two constant tables of the core: space ALPHA (the alphabet ROM,
R60, R96, R99) and space CLASS (the classification of an input byte in phase DEC, R61, R100, R101). They are
parameters of the step, not state (R39). -/

namespace Sys2Proof

/-! ### The constants (R6, R7)

BYTE_BITS and SYM_BITS stand in Sys2Proof/Word.lean, because they are the widths of the types `Byte` and `Sextet`. -/

/-- ALPHABET_SIZE (R6): the modulus of all key and symbol arithmetic. -/
def alphabetSize : Nat := 64

/-- BLOCK_RAW (R6): raw bytes per block. -/
def blockRaw : Nat := 3

/-- BLOCK_SYM (R6): symbols per block. -/
def blockSym : Nat := 4

/-- LINE_WIDTH (R6): output characters per line before a newline is emitted. -/
def lineWidth : Nat := 76

/-- PAD_CHAR (R6): the padding marker `=`. -/
def padChar : Byte := 0x3D#byteBits

/-- NL (R6, R67): the newline the encoder emits. -/
def newline : Byte := 0x0A#byteBits

/-- KEY_MAX (R6): the largest legal `keyBase` and `keyIncrement`. -/
def keyMax : Nat := 63

/-- K_MAX (R6, R126): the largest value the key register K holds in a session. -/
def kMax : Nat := 126

/-! ### The arithmetic modulo 64 (R120, R127, R128) -/

/-- `fmod64` (R120): the floored modulus of a mathematical integer, as a sextet. `Int.emod` by a positive divisor
is the floored one: its result lies in 0 to 63 whatever the sign of `x`. -/
def fmod64 (x : Int) : Sextet := BitVec.ofNat symBits (x % (alphabetSize : Int)).toNat

/-- `AddMod(s, off) = fmod64(s + off)` (R127). -/
def addMod (s off : Sextet) : Sextet := fmod64 ((s.toNat : Int) + (off.toNat : Int))

/-- `SubMod(v, off) = fmod64(v - off)` (R128): the one place where an intermediate value is negative. -/
def subMod (v off : Sextet) : Sextet := fmod64 ((v.toNat : Int) - (off.toNat : Int))

/-! ### Space ALPHA (R60, R96, R99) -/

/-- `ALPHA[i]` (R99): `A`-`Z`, `a`-`z`, `0`-`9`, `+`, `/` in ASCII. -/
def alpha (i : Sextet) : Byte :=
  if i ≤ 25#symBits then 0x41#byteBits + i.setWidth byteBits
  else if i ≤ 51#symBits then 0x61#byteBits + (i.setWidth byteBits - 26#byteBits)
  else if i ≤ 61#symBits then 0x30#byteBits + (i.setWidth byteBits - 52#byteBits)
  else if i = 62#symBits then 0x2B#byteBits
  else 0x2F#byteBits

/-! ### Space CLASS (R61, R100, R101) -/

/-- The four classes of an input byte in phase DEC (R100). -/
inductive CharClass where
  /-- the alphabet character of index `v` -/
  | sym (v : Sextet)
  /-- the padding marker -/
  | pad
  /-- a byte of `WS_SET` -/
  | ws
  /-- any other byte -/
  | inv
deriving DecidableEq, Repr

/-- The index of an alphabet character (R101); `none` for a byte that is no alphabet character. -/
def symIndex (c : Byte) : Option Sextet :=
  if 0x41#byteBits ≤ c ∧ c ≤ 0x5A#byteBits then some ((c - 0x41#byteBits).setWidth symBits)
  else if 0x61#byteBits ≤ c ∧ c ≤ 0x7A#byteBits then some ((c - 0x61#byteBits + 26#byteBits).setWidth symBits)
  else if 0x30#byteBits ≤ c ∧ c ≤ 0x39#byteBits then some ((c - 0x30#byteBits + 52#byteBits).setWidth symBits)
  else if c = 0x2B#byteBits then some 62#symBits
  else if c = 0x2F#byteBits then some 63#symBits
  else none

/-- `Class(c)` (R100), the four tests in the order the rule makes them. -/
def classify (ws : WsSet) (c : Byte) : CharClass :=
  if c ∈ ws then .ws
  else if c = padChar then .pad
  else match symIndex c with
    | some v => .sym v
    | none => .inv

end Sys2Proof
end

