-- ==== Sys2Proof/Config.lean ====
section
/-! DEFINITION. The identity of the block (spec/00_scope.md rule R2) and its one open parameter, `WS_SET` (rule R8,
decision D6). The fixed constants of rule R6 stand in Sys2Proof/Machine/Tables.lean, where a later repair can mend them. A state carries the
`WS_SET` of its core (field `wsSet`, never written), so that a statement about every state is about every `WS_SET`. -/

namespace Sys2Proof

/-! ### Identity (R2) -/

/-- What a model records of the identity of the block (R2). There is no field for an ISA string, an extension list, a part
number or a vendor, because the block has none. -/
structure Identity where
  /-- the name of the block -/
  name : String
  /-- the repository of the source program -/
  sourceRepository : String
  /-- the edition of the spec -/
  specEdition : String
deriving DecidableEq, Repr

/-- The identity R2 asks a model to record. No rule of the machine reads it. -/
def Config.identity : Identity where
  name := "yas codec core"
  sourceRepository := "706f6c6c7578/yas"
  specEdition := "written from document the source"

/-! ### WS_SET (R8) -/

/-- The constraints on `WS_SET` (R8): newline and space are in it, `=` and every alphabet character are not. -/
def Config.wsLegal (ws : WsSet) : Bool :=
  ws.contains 0x0A#byteBits && ws.contains 0x20#byteBits && ws.all (fun c => c != padChar && (symIndex c).isNone)

/-- The default `WS_SET` (R8): HT, LF, VT, FF, CR, SP. PRESUMED (assumption 3): R8 marks these six as general knowledge.
Unsafe where it is relied on: another implementation may skip another set. -/
def Config.wsDefault : WsSet := [0x09#byteBits, 0x0A#byteBits, 0x0B#byteBits, 0x0C#byteBits, 0x0D#byteBits, 0x20#byteBits]

end Sys2Proof
end

