-- ==== Sys2Proof/Syntax.lean ====
section
/-! DEFINITION. The syntax of the core: one constructor of `Instr` per row of spec/opcode_table.json (R112), the phase
in which each row applies, and the two words that carry them (R91, R93). RESET and OUT are signals, not encoded words,
and have no row (R112): they stand among the host's events in Sys2Proof/Machine/State.lean. -/

namespace Sys2Proof

/-- PHASE (R31): which session, if any, is running. -/
inductive Phase where
  /-- 0: no session; a command may be accepted -/
  | idle
  /-- 1: an encode session is running -/
  | enc
  /-- 2: a decode session is running -/
  | dec
  /-- 3: a decode session hit a fatal error; the core is stopped -/
  | fault
deriving DecidableEq, Repr

/-- One encoded word on one of the two word ports: the CMD port (R91) or the IN port (R93). -/
inductive PortWord where
  /-- a command word on the CMD port -/
  | cmd (w : CmdWord)
  /-- an input beat on the IN port -/
  | beat (w : BeatWord)
deriving DecidableEq, Repr

/-- The instructions: one constructor per row of spec/opcode_table.json. -/
inductive Instr where
  /-- ENC: start an encode session (R210) -/
  | enc (kb ki : Sextet)
  /-- DEC: start a decode session (R211) -/
  | dec (kb ki : Sextet)
  /-- ENC.IN: one raw byte in phase ENC (R143) -/
  | encIn (b : Byte)
  /-- ENC.EOS: end of stream in phase ENC (R150) -/
  | encEos
  /-- DEC.EOS: end of stream in phase DEC (R186) -/
  | decEos
  /-- DEC.SYM.0: the character `A` in phase DEC (R174) -/
  | decSym0
  /-- DEC.SYM.1: the character `B` in phase DEC (R174) -/
  | decSym1
  /-- DEC.SYM.2: the character `C` in phase DEC (R174) -/
  | decSym2
  /-- DEC.SYM.3: the character `D` in phase DEC (R174) -/
  | decSym3
  /-- DEC.SYM.4: the character `E` in phase DEC (R174) -/
  | decSym4
  /-- DEC.SYM.5: the character `F` in phase DEC (R174) -/
  | decSym5
  /-- DEC.SYM.6: the character `G` in phase DEC (R174) -/
  | decSym6
  /-- DEC.SYM.7: the character `H` in phase DEC (R174) -/
  | decSym7
  /-- DEC.SYM.8: the character `I` in phase DEC (R174) -/
  | decSym8
  /-- DEC.SYM.9: the character `J` in phase DEC (R174) -/
  | decSym9
  /-- DEC.SYM.10: the character `K` in phase DEC (R174) -/
  | decSym10
  /-- DEC.SYM.11: the character `L` in phase DEC (R174) -/
  | decSym11
  /-- DEC.SYM.12: the character `M` in phase DEC (R174) -/
  | decSym12
  /-- DEC.SYM.13: the character `N` in phase DEC (R174) -/
  | decSym13
  /-- DEC.SYM.14: the character `O` in phase DEC (R174) -/
  | decSym14
  /-- DEC.SYM.15: the character `P` in phase DEC (R174) -/
  | decSym15
  /-- DEC.SYM.16: the character `Q` in phase DEC (R174) -/
  | decSym16
  /-- DEC.SYM.17: the character `R` in phase DEC (R174) -/
  | decSym17
  /-- DEC.SYM.18: the character `S` in phase DEC (R174) -/
  | decSym18
  /-- DEC.SYM.19: the character `T` in phase DEC (R174) -/
  | decSym19
  /-- DEC.SYM.20: the character `U` in phase DEC (R174) -/
  | decSym20
  /-- DEC.SYM.21: the character `V` in phase DEC (R174) -/
  | decSym21
  /-- DEC.SYM.22: the character `W` in phase DEC (R174) -/
  | decSym22
  /-- DEC.SYM.23: the character `X` in phase DEC (R174) -/
  | decSym23
  /-- DEC.SYM.24: the character `Y` in phase DEC (R174) -/
  | decSym24
  /-- DEC.SYM.25: the character `Z` in phase DEC (R174) -/
  | decSym25
  /-- DEC.SYM.26: the character `a` in phase DEC (R174) -/
  | decSym26
  /-- DEC.SYM.27: the character `b` in phase DEC (R174) -/
  | decSym27
  /-- DEC.SYM.28: the character `c` in phase DEC (R174) -/
  | decSym28
  /-- DEC.SYM.29: the character `d` in phase DEC (R174) -/
  | decSym29
  /-- DEC.SYM.30: the character `e` in phase DEC (R174) -/
  | decSym30
  /-- DEC.SYM.31: the character `f` in phase DEC (R174) -/
  | decSym31
  /-- DEC.SYM.32: the character `g` in phase DEC (R174) -/
  | decSym32
  /-- DEC.SYM.33: the character `h` in phase DEC (R174) -/
  | decSym33
  /-- DEC.SYM.34: the character `i` in phase DEC (R174) -/
  | decSym34
  /-- DEC.SYM.35: the character `j` in phase DEC (R174) -/
  | decSym35
  /-- DEC.SYM.36: the character `k` in phase DEC (R174) -/
  | decSym36
  /-- DEC.SYM.37: the character `l` in phase DEC (R174) -/
  | decSym37
  /-- DEC.SYM.38: the character `m` in phase DEC (R174) -/
  | decSym38
  /-- DEC.SYM.39: the character `n` in phase DEC (R174) -/
  | decSym39
  /-- DEC.SYM.40: the character `o` in phase DEC (R174) -/
  | decSym40
  /-- DEC.SYM.41: the character `p` in phase DEC (R174) -/
  | decSym41
  /-- DEC.SYM.42: the character `q` in phase DEC (R174) -/
  | decSym42
  /-- DEC.SYM.43: the character `r` in phase DEC (R174) -/
  | decSym43
  /-- DEC.SYM.44: the character `s` in phase DEC (R174) -/
  | decSym44
  /-- DEC.SYM.45: the character `t` in phase DEC (R174) -/
  | decSym45
  /-- DEC.SYM.46: the character `u` in phase DEC (R174) -/
  | decSym46
  /-- DEC.SYM.47: the character `v` in phase DEC (R174) -/
  | decSym47
  /-- DEC.SYM.48: the character `w` in phase DEC (R174) -/
  | decSym48
  /-- DEC.SYM.49: the character `x` in phase DEC (R174) -/
  | decSym49
  /-- DEC.SYM.50: the character `y` in phase DEC (R174) -/
  | decSym50
  /-- DEC.SYM.51: the character `z` in phase DEC (R174) -/
  | decSym51
  /-- DEC.SYM.52: the character `0` in phase DEC (R174) -/
  | decSym52
  /-- DEC.SYM.53: the character `1` in phase DEC (R174) -/
  | decSym53
  /-- DEC.SYM.54: the character `2` in phase DEC (R174) -/
  | decSym54
  /-- DEC.SYM.55: the character `3` in phase DEC (R174) -/
  | decSym55
  /-- DEC.SYM.56: the character `4` in phase DEC (R174) -/
  | decSym56
  /-- DEC.SYM.57: the character `5` in phase DEC (R174) -/
  | decSym57
  /-- DEC.SYM.58: the character `6` in phase DEC (R174) -/
  | decSym58
  /-- DEC.SYM.59: the character `7` in phase DEC (R174) -/
  | decSym59
  /-- DEC.SYM.60: the character `8` in phase DEC (R174) -/
  | decSym60
  /-- DEC.SYM.61: the character `9` in phase DEC (R174) -/
  | decSym61
  /-- DEC.SYM.62: the character `+` in phase DEC (R174) -/
  | decSym62
  /-- DEC.SYM.63: the character `/` in phase DEC (R174) -/
  | decSym63
  /-- DEC.PAD: the marker `=` in phase DEC (R174) -/
  | decPad
  /-- DEC.WS.HT: the whitespace byte 0x09 in phase DEC (R173) -/
  | decWsHt
  /-- DEC.WS.LF: the whitespace byte 0x0A in phase DEC (R173) -/
  | decWsLf
  /-- DEC.WS.VT: the whitespace byte 0x0B in phase DEC (R173) -/
  | decWsVt
  /-- DEC.WS.FF: the whitespace byte 0x0C in phase DEC (R173) -/
  | decWsFf
  /-- DEC.WS.CR: the whitespace byte 0x0D in phase DEC (R173) -/
  | decWsCr
  /-- DEC.WS.SP: the whitespace byte 0x20 in phase DEC (R173) -/
  | decWsSp
  /-- DEC.INV: any other byte in phase DEC (R174) -/
  | decInv (c : Byte)
deriving DecidableEq, Repr

/-- The `phase` entry of a row (R112): the one phase in which the row applies. -/
def Instr.phase : Instr → Phase
  | .enc _ _ => .idle
  | .dec _ _ => .idle
  | .encIn _ => .enc
  | .encEos => .enc
  | .decEos => .dec
  | .decSym0 => .dec
  | .decSym1 => .dec
  | .decSym2 => .dec
  | .decSym3 => .dec
  | .decSym4 => .dec
  | .decSym5 => .dec
  | .decSym6 => .dec
  | .decSym7 => .dec
  | .decSym8 => .dec
  | .decSym9 => .dec
  | .decSym10 => .dec
  | .decSym11 => .dec
  | .decSym12 => .dec
  | .decSym13 => .dec
  | .decSym14 => .dec
  | .decSym15 => .dec
  | .decSym16 => .dec
  | .decSym17 => .dec
  | .decSym18 => .dec
  | .decSym19 => .dec
  | .decSym20 => .dec
  | .decSym21 => .dec
  | .decSym22 => .dec
  | .decSym23 => .dec
  | .decSym24 => .dec
  | .decSym25 => .dec
  | .decSym26 => .dec
  | .decSym27 => .dec
  | .decSym28 => .dec
  | .decSym29 => .dec
  | .decSym30 => .dec
  | .decSym31 => .dec
  | .decSym32 => .dec
  | .decSym33 => .dec
  | .decSym34 => .dec
  | .decSym35 => .dec
  | .decSym36 => .dec
  | .decSym37 => .dec
  | .decSym38 => .dec
  | .decSym39 => .dec
  | .decSym40 => .dec
  | .decSym41 => .dec
  | .decSym42 => .dec
  | .decSym43 => .dec
  | .decSym44 => .dec
  | .decSym45 => .dec
  | .decSym46 => .dec
  | .decSym47 => .dec
  | .decSym48 => .dec
  | .decSym49 => .dec
  | .decSym50 => .dec
  | .decSym51 => .dec
  | .decSym52 => .dec
  | .decSym53 => .dec
  | .decSym54 => .dec
  | .decSym55 => .dec
  | .decSym56 => .dec
  | .decSym57 => .dec
  | .decSym58 => .dec
  | .decSym59 => .dec
  | .decSym60 => .dec
  | .decSym61 => .dec
  | .decSym62 => .dec
  | .decSym63 => .dec
  | .decPad => .dec
  | .decWsHt => .dec
  | .decWsLf => .dec
  | .decWsVt => .dec
  | .decWsFf => .dec
  | .decWsCr => .dec
  | .decWsSp => .dec
  | .decInv _ => .dec

/-- The DATA byte and the `class` entry of a row of sub-format CHAR (R112); `none` for a row that does not look at
the data. -/
def Instr.char? : Instr → Option (Byte × CharClass)
  | .enc _ _ => none
  | .dec _ _ => none
  | .encIn _ => none
  | .encEos => none
  | .decEos => none
  | .decSym0 => some (0x41#8, .sym 0#6)
  | .decSym1 => some (0x42#8, .sym 1#6)
  | .decSym2 => some (0x43#8, .sym 2#6)
  | .decSym3 => some (0x44#8, .sym 3#6)
  | .decSym4 => some (0x45#8, .sym 4#6)
  | .decSym5 => some (0x46#8, .sym 5#6)
  | .decSym6 => some (0x47#8, .sym 6#6)
  | .decSym7 => some (0x48#8, .sym 7#6)
  | .decSym8 => some (0x49#8, .sym 8#6)
  | .decSym9 => some (0x4A#8, .sym 9#6)
  | .decSym10 => some (0x4B#8, .sym 10#6)
  | .decSym11 => some (0x4C#8, .sym 11#6)
  | .decSym12 => some (0x4D#8, .sym 12#6)
  | .decSym13 => some (0x4E#8, .sym 13#6)
  | .decSym14 => some (0x4F#8, .sym 14#6)
  | .decSym15 => some (0x50#8, .sym 15#6)
  | .decSym16 => some (0x51#8, .sym 16#6)
  | .decSym17 => some (0x52#8, .sym 17#6)
  | .decSym18 => some (0x53#8, .sym 18#6)
  | .decSym19 => some (0x54#8, .sym 19#6)
  | .decSym20 => some (0x55#8, .sym 20#6)
  | .decSym21 => some (0x56#8, .sym 21#6)
  | .decSym22 => some (0x57#8, .sym 22#6)
  | .decSym23 => some (0x58#8, .sym 23#6)
  | .decSym24 => some (0x59#8, .sym 24#6)
  | .decSym25 => some (0x5A#8, .sym 25#6)
  | .decSym26 => some (0x61#8, .sym 26#6)
  | .decSym27 => some (0x62#8, .sym 27#6)
  | .decSym28 => some (0x63#8, .sym 28#6)
  | .decSym29 => some (0x64#8, .sym 29#6)
  | .decSym30 => some (0x65#8, .sym 30#6)
  | .decSym31 => some (0x66#8, .sym 31#6)
  | .decSym32 => some (0x67#8, .sym 32#6)
  | .decSym33 => some (0x68#8, .sym 33#6)
  | .decSym34 => some (0x69#8, .sym 34#6)
  | .decSym35 => some (0x6A#8, .sym 35#6)
  | .decSym36 => some (0x6B#8, .sym 36#6)
  | .decSym37 => some (0x6C#8, .sym 37#6)
  | .decSym38 => some (0x6D#8, .sym 38#6)
  | .decSym39 => some (0x6E#8, .sym 39#6)
  | .decSym40 => some (0x6F#8, .sym 40#6)
  | .decSym41 => some (0x70#8, .sym 41#6)
  | .decSym42 => some (0x71#8, .sym 42#6)
  | .decSym43 => some (0x72#8, .sym 43#6)
  | .decSym44 => some (0x73#8, .sym 44#6)
  | .decSym45 => some (0x74#8, .sym 45#6)
  | .decSym46 => some (0x75#8, .sym 46#6)
  | .decSym47 => some (0x76#8, .sym 47#6)
  | .decSym48 => some (0x77#8, .sym 48#6)
  | .decSym49 => some (0x78#8, .sym 49#6)
  | .decSym50 => some (0x79#8, .sym 50#6)
  | .decSym51 => some (0x7A#8, .sym 51#6)
  | .decSym52 => some (0x30#8, .sym 52#6)
  | .decSym53 => some (0x31#8, .sym 53#6)
  | .decSym54 => some (0x32#8, .sym 54#6)
  | .decSym55 => some (0x33#8, .sym 55#6)
  | .decSym56 => some (0x34#8, .sym 56#6)
  | .decSym57 => some (0x35#8, .sym 57#6)
  | .decSym58 => some (0x36#8, .sym 58#6)
  | .decSym59 => some (0x37#8, .sym 59#6)
  | .decSym60 => some (0x38#8, .sym 60#6)
  | .decSym61 => some (0x39#8, .sym 61#6)
  | .decSym62 => some (0x2B#8, .sym 62#6)
  | .decSym63 => some (0x2F#8, .sym 63#6)
  | .decPad => some (0x3D#8, .pad)
  | .decWsHt => some (0x09#8, .ws)
  | .decWsLf => some (0x0A#8, .ws)
  | .decWsVt => some (0x0B#8, .ws)
  | .decWsFf => some (0x0C#8, .ws)
  | .decWsCr => some (0x0D#8, .ws)
  | .decWsSp => some (0x20#8, .ws)
  | .decInv c => some (c, .inv)

end Sys2Proof
end

