-- ==== Sys2Proof/WellFormed.lean ====
section
/-! DEFINITION. Which instructions are well formed under a given `WS_SET`. The fields of CMD and INBEAT admit every value
(R91, R105), so the only check is the one the table's `class` column makes: a row of sub-format CHAR stands for its byte
only where `Class` of that byte is the row's class (R100, R112). -/

namespace Sys2Proof

/-- An instruction is well formed under `ws` when the byte it stands for has the class of its row (R100, R112). Under a
`WS_SET` without HT, DEC.WS.HT is ill formed and DEC.INV 0x09 is well formed (R102). -/
def Instr.wellFormed (ws : WsSet) (i : Instr) : Bool :=
  match i.char? with
  | none => true
  | some (c, k) => classify ws c == k

end Sys2Proof
end

