-- ==== Sys2Proof/Decode.lean ====
section
/-! DEFINITION. The decoder (total on every word, rejecting by name) and, after it, the encoder, both written from
spec/30_encoding.md (R91, R93, R100, R112). What a word means depends on the phase: the same nine bits are ENC.IN in phase
ENC and DEC.SYM.0 in phase DEC. -/

namespace Sys2Proof

/-! ### The fields of the two formats -/

/-- Field OP of a command word: bit 12, 1 = ENC (R91). -/
def cmdOp (w : CmdWord) : Bool := w.getLsbD 12

/-- Field KB of a command word: bits 11:6 (R91). -/
def cmdKb (w : CmdWord) : Sextet := w.extractLsb' 6 symBits

/-- Field KI of a command word: bits 5:0 (R91). -/
def cmdKi (w : CmdWord) : Sextet := w.extractLsb' 0 symBits

/-- Field EOS of an input beat: bit 8 (R93). -/
def beatEos (w : BeatWord) : Bool := w.getLsbD 8

/-- Field DATA of an input beat: bits 7:0, ignored where EOS is 1 (R93, R105). -/
def beatData (w : BeatWord) : Byte := w.extractLsb' 0 byteBits

/-! ### Decoding -/

/-- Why a word offered in some phase selects no row of the table. -/
inductive Reject where
  /-- The phase does not accept a word of this port: the event is held (R218). -/
  | held
  /-- A byte of a `WS_SET` wider than the default one: accepted and ignored (R173), but the table has a row only for the
  six bytes of the default `WS_SET` (R112). -/
  | wsWithoutRow (c : Byte)
deriving DecidableEq, Repr

/-- What the decoder answers. -/
inductive Decoded where
  /-- the row the word selects -/
  | instr (i : Instr)
  /-- no row, and why -/
  | rejected (r : Reject)
deriving DecidableEq, Repr

/-- The DEC.SYM rows in the order of their `value` (R112). -/
def symInstrs : List Instr :=
  [.decSym0, .decSym1, .decSym2, .decSym3, .decSym4, .decSym5, .decSym6, .decSym7,
   .decSym8, .decSym9, .decSym10, .decSym11, .decSym12, .decSym13, .decSym14, .decSym15,
   .decSym16, .decSym17, .decSym18, .decSym19, .decSym20, .decSym21, .decSym22, .decSym23,
   .decSym24, .decSym25, .decSym26, .decSym27, .decSym28, .decSym29, .decSym30, .decSym31,
   .decSym32, .decSym33, .decSym34, .decSym35, .decSym36, .decSym37, .decSym38, .decSym39,
   .decSym40, .decSym41, .decSym42, .decSym43, .decSym44, .decSym45, .decSym46, .decSym47,
   .decSym48, .decSym49, .decSym50, .decSym51, .decSym52, .decSym53, .decSym54, .decSym55,
   .decSym56, .decSym57, .decSym58, .decSym59, .decSym60, .decSym61, .decSym62, .decSym63]

/-- The row DEC.SYM.v (R112). -/
def symInstr (v : Sextet) : Instr := symInstrs.getD v.toNat .decSym0

/-- The row of a whitespace byte, for the six bytes that have one (R112). -/
def wsInstr? (c : Byte) : Option Instr :=
  if c = 0x09#8 then some .decWsHt
  else if c = 0x0A#8 then some .decWsLf
  else if c = 0x0B#8 then some .decWsVt
  else if c = 0x0C#8 then some .decWsFf
  else if c = 0x0D#8 then some .decWsCr
  else if c = 0x20#8 then some .decWsSp
  else none

/-- A command word: every one of the 8192 values is legal (R91). -/
def decodeCmd (w : CmdWord) : Instr :=
  if cmdOp w then .enc (cmdKb w) (cmdKi w) else .dec (cmdKb w) (cmdKi w)

/-- A data byte in phase DEC, by its class (R100, R172). -/
def decodeChar (ws : WsSet) (c : Byte) : Decoded :=
  match classify ws c with
  | .sym v => .instr (symInstr v)
  | .pad => .instr .decPad
  | .ws =>
    match wsInstr? c with
    | some i => .instr i
    | none => .rejected (.wsWithoutRow c)
  | .inv => .instr (.decInv c)

/-- An input beat, by the phase that meets it (R93, R112, R218). -/
def decodeBeat (ws : WsSet) (ph : Phase) (w : BeatWord) : Decoded :=
  match ph with
  | .idle => .rejected .held
  | .fault => .rejected .held
  | .enc => if beatEos w then .instr .encEos else .instr (.encIn (beatData w))
  | .dec => if beatEos w then .instr .decEos else decodeChar ws (beatData w)

/-- The decoder: the row that a word selects in a phase, under a `WS_SET` (R112), or why it selects none. -/
def decode (ws : WsSet) (ph : Phase) : PortWord → Decoded
  | .cmd w => if ph = .idle then .instr (decodeCmd w) else .rejected .held
  | .beat w => decodeBeat ws ph w

/-! ### Reading a word of the table without its phase

The table numbers the words of two ports, and of three phases, over the same low bits. A word of the table alone therefore
does not say which row is meant; `tableReading` fixes one reading (DESIGN CHOICE, assumption 7): the row that fixes the
most bits, an exact CHAR row before a row of INBEAT before a row of CMD, and among equals the one the table lists first. -/

/-- The phase and the port on which a word of the table is read. `nbits` 13 names format CMD and 9 or 16 leaves the choice
to the word; a value that needs more than 13 bits is a word of no format. -/
def tableReading (nbits w : Nat) : Option (Phase × PortWord) :=
  if 2 ^ 13 ≤ w then none
  else if nbits = 13 ∨ 2 ^ 9 ≤ w then some (.idle, .cmd (BitVec.ofNat 13 w))
  else if 2 ^ 8 ≤ w then some (.enc, .beat (BitVec.ofNat 9 w))
  else if classify Config.wsDefault (BitVec.ofNat 8 w) = .inv then some (.enc, .beat (BitVec.ofNat 9 w))
  else some (.dec, .beat (BitVec.ofNat 9 w))

/-- The instruction the decoder reads from a word of the table, under the default `WS_SET`. -/
def decodeTableWord (nbits w : Nat) : Option Instr :=
  match tableReading nbits w with
  | none => none
  | some (ph, pw) =>
    match decode Config.wsDefault ph pw with
    | .instr i => some i
    | .rejected _ => none

/-! ### Encoding -/

/-- A command word from its fields (R91). -/
def cmdWord (op : Bool) (kb ki : Sextet) : PortWord := .cmd (BitVec.ofBool op ++ kb ++ ki)

/-- A data beat: EOS = 0 (R93). -/
def dataBeat (b : Byte) : PortWord := .beat (0#1 ++ b)

/-- The end-of-stream beat as the spec writes it (R93). -/
def eosBeat : PortWord := .beat 0x100#9

/-- The encoder: the word of an instruction (R91, R93, R112). -/
def encode : Instr → PortWord
  | .enc kb ki => cmdWord true kb ki
  | .dec kb ki => cmdWord false kb ki
  | .encIn b => dataBeat b
  | .encEos => eosBeat
  | .decEos => eosBeat
  | .decSym0 => .beat 0x041#9
  | .decSym1 => .beat 0x042#9
  | .decSym2 => .beat 0x043#9
  | .decSym3 => .beat 0x044#9
  | .decSym4 => .beat 0x045#9
  | .decSym5 => .beat 0x046#9
  | .decSym6 => .beat 0x047#9
  | .decSym7 => .beat 0x048#9
  | .decSym8 => .beat 0x049#9
  | .decSym9 => .beat 0x04A#9
  | .decSym10 => .beat 0x04B#9
  | .decSym11 => .beat 0x04C#9
  | .decSym12 => .beat 0x04D#9
  | .decSym13 => .beat 0x04E#9
  | .decSym14 => .beat 0x04F#9
  | .decSym15 => .beat 0x050#9
  | .decSym16 => .beat 0x051#9
  | .decSym17 => .beat 0x052#9
  | .decSym18 => .beat 0x053#9
  | .decSym19 => .beat 0x054#9
  | .decSym20 => .beat 0x055#9
  | .decSym21 => .beat 0x056#9
  | .decSym22 => .beat 0x057#9
  | .decSym23 => .beat 0x058#9
  | .decSym24 => .beat 0x059#9
  | .decSym25 => .beat 0x05A#9
  | .decSym26 => .beat 0x061#9
  | .decSym27 => .beat 0x062#9
  | .decSym28 => .beat 0x063#9
  | .decSym29 => .beat 0x064#9
  | .decSym30 => .beat 0x065#9
  | .decSym31 => .beat 0x066#9
  | .decSym32 => .beat 0x067#9
  | .decSym33 => .beat 0x068#9
  | .decSym34 => .beat 0x069#9
  | .decSym35 => .beat 0x06A#9
  | .decSym36 => .beat 0x06B#9
  | .decSym37 => .beat 0x06C#9
  | .decSym38 => .beat 0x06D#9
  | .decSym39 => .beat 0x06E#9
  | .decSym40 => .beat 0x06F#9
  | .decSym41 => .beat 0x070#9
  | .decSym42 => .beat 0x071#9
  | .decSym43 => .beat 0x072#9
  | .decSym44 => .beat 0x073#9
  | .decSym45 => .beat 0x074#9
  | .decSym46 => .beat 0x075#9
  | .decSym47 => .beat 0x076#9
  | .decSym48 => .beat 0x077#9
  | .decSym49 => .beat 0x078#9
  | .decSym50 => .beat 0x079#9
  | .decSym51 => .beat 0x07A#9
  | .decSym52 => .beat 0x030#9
  | .decSym53 => .beat 0x031#9
  | .decSym54 => .beat 0x032#9
  | .decSym55 => .beat 0x033#9
  | .decSym56 => .beat 0x034#9
  | .decSym57 => .beat 0x035#9
  | .decSym58 => .beat 0x036#9
  | .decSym59 => .beat 0x037#9
  | .decSym60 => .beat 0x038#9
  | .decSym61 => .beat 0x039#9
  | .decSym62 => .beat 0x02B#9
  | .decSym63 => .beat 0x02F#9
  | .decPad => .beat 0x03D#9
  | .decWsHt => .beat 0x009#9
  | .decWsLf => .beat 0x00A#9
  | .decWsVt => .beat 0x00B#9
  | .decWsFf => .beat 0x00C#9
  | .decWsCr => .beat 0x00D#9
  | .decWsSp => .beat 0x020#9
  | .decInv c => dataBeat c

end Sys2Proof
end

