-- ==== Sys2Proof/Machine/State.lean ====
section
/-! DEFINITION. The state of the core (spec/10_state.md rule R20), the host's side of its ports (R9, R10), the faults and
refusals of the model, and the state after RESET (R41, R281). Plain data throughout. -/

namespace Sys2Proof.Machine

/-- ERR (R34, R246): the fault code, 2 bits. -/
inductive ErrCode where
  /-- 0: no fault -/
  | none
  /-- 1: E_LEN, malformed block length -/
  | eLen
  /-- 2: E_CHAR, invalid character -/
  | eChar
  /-- 3: E_PAD, too many padding markers -/
  | ePad
deriving DecidableEq, Repr

/-- BUF[0..2] (R23). A slot is `none` where the spec says that it holds no value (R44): the rules themselves put a slot
into that state (R144, R212, R280), so it is the spec's own state and not a missing reset value (assumption 2). -/
structure ChunkBuf where
  /-- BUF[0] -/
  b0 : Option Byte
  /-- BUF[1] -/
  b1 : Option Byte
  /-- BUF[2] -/
  b2 : Option Byte
deriving DecidableEq, Repr

/-- QUAD[0..3] (R26). A slot is `none` where the spec says that it holds no value (R44), as in `ChunkBuf`. -/
structure QuadBuf where
  /-- QUAD[0] -/
  c0 : Option Byte
  /-- QUAD[1] -/
  c1 : Option Byte
  /-- QUAD[2] -/
  c2 : Option Byte
  /-- QUAD[3] -/
  c3 : Option Byte
deriving DecidableEq, Repr

/-- Every slot of BUF holds no value. -/
def ChunkBuf.empty : ChunkBuf := { b0 := none, b1 := none, b2 := none }

/-- Every slot of QUAD holds no value. -/
def QuadBuf.empty : QuadBuf := { c0 := none, c1 := none, c2 := none, c3 := none }

/-- What the host offers to the core, one event at a time (R10, R225). -/
inductive Offer where
  /-- a word on the CMD or the IN port (R91, R93) -/
  | word (w : PortWord)
  /-- OUT: the host takes a byte of the output queue (R65) -/
  | out
  /-- RESET (R280) -/
  | reset
deriving DecidableEq, Repr

/-- The state of the core, the `WS_SET` it was built with, and the host's side of its ports. -/
structure State where
  /-- PHASE, 2 bits (R31) -/
  phase : Phase
  /-- DONE, 1 bit (R32) -/
  done : Bool
  /-- ERR, 2 bits (R34) -/
  err : ErrCode
  /-- ERRINFO, 8 bits (R35) -/
  errInfo : Byte
  /-- K, the key state, 7 bits (R21) -/
  k : BitVec 7
  /-- INC, the latched key increment, 6 bits (R22) -/
  inc : Sextet
  /-- BUF[0..2], the chunk buffer, 3 x 8 bits (R23) -/
  buf : ChunkBuf
  /-- CNT, the chunk fill count, 2 bits (R24) -/
  cnt : BitVec 2
  /-- COL, the column counter, 7 bits (R25) -/
  col : BitVec 7
  /-- QUAD[0..3], the character buffer, 4 x 8 bits (R26) -/
  quad : QuadBuf
  /-- NCH, the character fill count, 2 bits (R27) -/
  nch : BitVec 2
  /-- PAD, the padding count, 3 bits (R28) -/
  pad : BitVec 3
  /-- OUTQ, the output queue, head first, unbounded (R38) -/
  outq : List Byte
  /-- The parameter `WS_SET` (R8, R39): configuration, carried here so that a statement about every state is about every
  `WS_SET`; no step writes it (R78, assumption 3) -/
  wsSet : WsSet
  /-- The RESET input (R74): asserted now, together with whatever else is offered (R255). The model's own field -/
  resetLine : Bool
  /-- The events the host has offered and the core has not accepted, in the order of offering (R10, R218). The model's own
  field (assumption 4) -/
  offers : List Offer
  /-- The bytes the host has taken from OUT, in order (R65). The model's own field: no rule reads it -/
  taken : List Byte
deriving DecidableEq, Repr

/-- Why a step of the MODEL stops. No rule of the spec stops the block: its own faults E_LEN, E_CHAR and E_PAD are next
states with PHASE = FAULT (R225, R247). These three name reads the spec says no rule makes; no state that satisfies
`Sys2Proof.Safety.Inv` raises one. -/
inductive Fault where
  /-- A rule read a slot of BUF or QUAD that holds no value: "treat a read of it as a fault of the model, not as zero"
  (R44). Raised by `encodeBlock` and `decodeBlock`. Safe: the spec gives the read no meaning. -/
  | absentSlot
  /-- A byte arrived in phase ENC with CNT = 3, a value CNT never has between steps (R24): BUF has no slot 3. Raised by
  `storeRaw`. Safe: the spec gives the write no meaning. -/
  | noSuchSlot
  /-- A whitespace byte stands in QUAD when a block is decoded: "WS cannot occur" (R176). Raised by `decodeBlock`. Safe:
  the spec gives the look-up no meaning. -/
  | whitespaceInQuad
deriving DecidableEq, Repr

/-- Why the model gives an instruction no meaning. -/
inductive Refusal where
  /-- An instruction of the table without a meaning, by its mnemonic. Raised by no arm: every row has its meaning. Safe. -/
  | notModelled (mnemonic : String)
deriving DecidableEq, Repr

/-- The outcome of a step. -/
abbrev Result := Host.Outcome State Fault Refusal

/-- The state after RESET, and at power-up (R41, R281). PHASE, DONE, ERR, ERRINFO and OUTQ are as the spec says and the
slots of BUF and QUAD hold no value. K, INC, CNT, COL, NCH and PAD have no reset value in the spec: zero is a
DESIGN CHOICE (assumption 1; unsafe, though no rule reads one of them before a command writes it, R41). `WS_SET` is the
default (assumption 3); the host offers nothing (assumption 8). -/
def State.reset : State where
  phase := .idle
  done := false
  err := .none
  errInfo := 0#byteBits
  k := 0#7
  inc := 0#symBits
  buf := ChunkBuf.empty
  cnt := 0#2
  col := 0#7
  quad := QuadBuf.empty
  nch := 0#2
  pad := 0#3
  outq := []
  wsSet := Config.wsDefault
  resetLine := false
  offers := []
  taken := []

end Sys2Proof.Machine
end

