-- ==== Sys2Proof/Machine/Flags.lean ====
section
/-! DEFINITION. The status flags and the STATUS word (spec/10_state.md rules R31 to R37, spec/60_exceptions.md rules R246
and R254). The block has no arithmetic flags (R37). -/

namespace Sys2Proof.Machine

/-- The code of a phase in STATUS (R31). -/
def phaseCode : Phase → BitVec 2
  | .idle => 0#2
  | .enc => 1#2
  | .dec => 2#2
  | .fault => 3#2

/-- The code of a fault in STATUS (R246). -/
def errCode : ErrCode → BitVec 2
  | .none => 0#2
  | .eLen => 1#2
  | .eChar => 2#2
  | .ePad => 3#2

/-- The STATUS port (R36): PHASE in bits 1:0, DONE in bit 2, ERR in bits 4:3, ERRINFO in bits 12:5. A read is a function of
the state and no step (R217). -/
def statusWord (s : State) : StatusWord :=
  s.errInfo ++ errCode s.err ++ BitVec.ofBool s.done ++ phaseCode s.phase

/-- The level signal DONE toward the host: STATUS bit 2 (R254). -/
def doneSignal (s : State) : Bool := s.done

/-- The level signal FAULT toward the host: PHASE = 3 (R37, R254). -/
def faultSignal (s : State) : Bool := s.phase == .fault

/-- The normal end of a session: PHASE <- IDLE and DONE <- 1, every other register kept (R214). -/
def endSession (s : State) : State := { s with phase := .idle, done := true }

end Sys2Proof.Machine
end

