-- ==== Sys2Proof/Machine/Operands.lean ====
section
/-! DEFINITION. The operand forms: the slots of BUF and QUAD (R23, R26), the packing of a block (R68, R95, R97, R98), the
bytes of a chunk with its zero padding (R145), and the look-up of four characters (R177). -/

namespace Sys2Proof.Machine

/-! ### Slots -/

/-- `BUF[i] <- v`; `none` where BUF has no slot `i`. -/
def ChunkBuf.write (b : ChunkBuf) (i : Nat) (v : Byte) : Option ChunkBuf :=
  match i with
  | 0 => some { b with b0 := some v }
  | 1 => some { b with b1 := some v }
  | 2 => some { b with b2 := some v }
  | _ => none

/-- `QUAD[i] <- v`, with `i` the 2-bit NCH: every value names a slot. -/
def QuadBuf.write (q : QuadBuf) (i : BitVec 2) (v : Byte) : QuadBuf :=
  if i = 0#2 then { q with c0 := some v }
  else if i = 1#2 then { q with c1 := some v }
  else if i = 2#2 then { q with c2 := some v }
  else { q with c3 := some v }

/-- The three raw bytes of a block. -/
structure RawBlock where
  /-- byte0 -/
  b0 : Byte
  /-- byte1 -/
  b1 : Byte
  /-- byte2 -/
  b2 : Byte
deriving DecidableEq, Repr

/-- The four sextets of a block. -/
structure SymBlock where
  /-- sextet0 -/
  s0 : Sextet
  /-- sextet1 -/
  s1 : Sextet
  /-- sextet2 -/
  s2 : Sextet
  /-- sextet3 -/
  s3 : Sextet
deriving DecidableEq, Repr

/-- The four characters of a block. -/
structure CharBlock where
  /-- character 0 -/
  c0 : Byte
  /-- character 1 -/
  c1 : Byte
  /-- character 2 -/
  c2 : Byte
  /-- character 3 -/
  c3 : Byte
deriving DecidableEq, Repr

/-- The bytes of a chunk of `n` bytes, zero-padded to three (R144 step 2, R145); `none` where one of the `n` slots holds
no value. -/
def chunkBytes (n : Nat) (b : ChunkBuf) : Option RawBlock :=
  match b.b0, (if 2 ≤ n then b.b1 else some 0x00#byteBits), (if blockRaw ≤ n then b.b2 else some 0x00#byteBits) with
  | some x, some y, some z => some { b0 := x, b1 := y, b2 := z }
  | _, _, _ => none

/-- The four characters in QUAD; `none` where a slot holds no value. -/
def QuadBuf.chars (q : QuadBuf) : Option CharBlock :=
  match q.c0, q.c1, q.c2, q.c3 with
  | some x, some y, some z, some w => some { c0 := x, c1 := y, c2 := z, c3 := w }
  | _, _, _, _ => none

/-! ### Packing -/

/-- Bytes to sextets (R97): the top part of each sextet first (R68). -/
def packSextets (r : RawBlock) : SymBlock where
  s0 := r.b0.extractLsb' 2 symBits
  s1 := r.b0.extractLsb' 0 2 ++ r.b1.extractLsb' 4 4
  s2 := r.b1.extractLsb' 0 4 ++ r.b2.extractLsb' 6 2
  s3 := r.b2.extractLsb' 0 symBits

/-- Sextets to bytes (R98). -/
def unpackBytes (t : SymBlock) : RawBlock where
  b0 := t.s0 ++ t.s1.extractLsb' 4 2
  b1 := t.s1.extractLsb' 0 4 ++ t.s2.extractLsb' 2 4
  b2 := t.s2.extractLsb' 0 2 ++ t.s3

/-! ### The look-up of a block (R177) -/

/-- The value of a character of a block: its index, or 0 for `=`; `none` for a character of class WS or INV. -/
def charValue (ws : WsSet) (c : Byte) : Option Sextet :=
  match classify ws c with
  | .sym v => some v
  | .pad => some 0#symBits
  | .ws => none
  | .inv => none

/-- The values of the four characters; `none` where one of them has none. -/
def blockValues (ws : WsSet) (q : CharBlock) : Option SymBlock :=
  match charValue ws q.c0, charValue ws q.c1, charValue ws q.c2, charValue ws q.c3 with
  | some x, some y, some z, some w => some { s0 := x, s1 := y, s2 := z, s3 := w }
  | _, _, _, _ => none

/-- The first character of class INV among the four, position 0 first (R177, R250). -/
def firstInvalid (ws : WsSet) (q : CharBlock) : Option Byte :=
  [q.c0, q.c1, q.c2, q.c3].find? (fun c => classify ws c == .inv)

end Sys2Proof.Machine
end

