-- ==== Sys2Proof/Machine/Ops.lean ====
section
/-! DEFINITION. The shared operations: the output queue (R64, R65), the key scheduler (R122), fault entry (R247), RESET,
the only way out of a fault (R252, R280), the start of a session (R212), and the acceptance of an instruction by phase
(R218). -/

namespace Sys2Proof.Machine

/-! ### The output queue -/

/-- `Emit(b)` (R64): append at the tail of OUTQ. -/
def emit (b : Byte) (s : State) : State := { s with outq := s.outq ++ [b] }

/-- The OUT port (R94): the byte at the head of OUTQ, if there is one. -/
def outBeat (s : State) : Option Byte := s.outq.head?

/-- `OUT` (R65): the host takes the byte at the head of OUTQ; no other register of the core changes. Not accepted with
OUTQ empty (R218). -/
def takeOut (s : State) : State :=
  match s.outq with
  | [] => s
  | b :: rest => { s with outq := rest, taken := s.taken ++ [b] }

/-! ### The key scheduler -/

/-- The offset `KsNext` returns: `fmod64(K)` (R122 steps 1 and 2). -/
def ksOffset (s : State) : Sextet := fmod64 (s.k.toNat : Int)

/-- The key state `KsNext` leaves: `K <- n + INC`, a 7-bit sum that is not reduced (R122 step 3). -/
def ksAdvance (s : State) : State := { s with k := (ksOffset s).setWidth 7 + s.inc.setWidth 7 }

/-- `KsNext` (R122): the offset for the current symbol, and the state with the key advanced. -/
def ksNext (s : State) : Sextet × State := (ksOffset s, ksAdvance s)

/-! ### Fault entry and the way out of it -/

/-- `raise Fault(code, info)` (R247): PHASE, ERR and ERRINFO are written and nothing else. The registers the rule leaves
without a specified value keep the values they had, as the rule allows (assumption 5). -/
def raiseFault (code : ErrCode) (info : Byte) (s : State) : State :=
  { s with phase := .fault, err := code, errInfo := info }

/-- `RESET` (R280, R281): the core is in its initial state; `WS_SET` is not affected (R281) and neither is what the host
offers or has taken (R219, R282). It is the only way out of phase FAULT (R252): there is no return from a fault. -/
def resetCore (s : State) : State :=
  { State.reset with wsSet := s.wsSet, resetLine := s.resetLine, offers := s.offers, taken := s.taken }

/-! ### Sessions -/

/-- `SessionInit(kb, ki)` (R212). -/
def sessionInit (kb ki : Sextet) (s : State) : State :=
  { s with
    done := false
    err := .none
    errInfo := 0#byteBits
    k := kb.setWidth 7
    inc := ki
    buf := ChunkBuf.empty
    cnt := 0#2
    col := 0#7
    quad := QuadBuf.empty
    nch := 0#2
    pad := 0#3 }

/-! ### Acceptance -/

/-- An instruction takes effect in the one phase that accepts it. In another phase its event is held: "no register
changes, nothing is emitted, no fault is raised" (R218). -/
def inPhase (p : Phase) (s : State) (effect : State → Result) : Result :=
  if s.phase = p then effect s else .next s

end Sys2Proof.Machine
end

