-- ==== Sys2Proof/Machine/Decoder.lean ====
section
/-! DEFINITION. The decoder (spec/42_decoder.md): `DecodeBlock` (R176) and the instructions of phase DEC: DEC.SYM.0 to
DEC.SYM.63, DEC.PAD and DEC.INV (R174), DEC.WS.* (R173) and DEC.EOS (R186). -/

namespace Sys2Proof.Machine

/-- Step 5 for one symbol (R179): take the next offset and subtract it modulo 64. -/
def decodeSym (v : Sextet) (s : State) : Sextet × State :=
  let (off, s) := ksNext s
  (subMod v off, s)

/-- Step 8 (R182): PAD <- 0, NCH <- 0, and every slot of QUAD holds no value. -/
def clearQuad (s : State) : State := { s with pad := 0#3, nch := 0#2, quad := QuadBuf.empty }

/-- Steps 5 to 8 for a block without an invalid character and with at most two markers (R176): remove the offsets, unpack,
write the first `blockRaw - PAD` bytes (R181), and start the next block (R182). -/
def decodeGoodBlock (v : SymBlock) (s : State) : State :=
  let (t0, s) := decodeSym v.s0 s
  let (t1, s) := decodeSym v.s1 s
  let (t2, s) := decodeSym v.s2 s
  let (t3, s) := decodeSym v.s3 s
  let r := unpackBytes { s0 := t0, s1 := t1, s2 := t2, s3 := t3 }
  clearQuad (([r.b0, r.b1, r.b2].take (blockRaw - s.pad.toNat)).foldl (fun s b => emit b s) s)

/-- `DecodeBlock()` (R176): the four characters are looked up before anything is written, the first invalid one faults
(R177, R250), then more than two markers fault (R178); a faulting block takes no offset and emits nothing (R192). -/
def decodeBlock (s : State) : Result :=
  match s.quad.chars with
  | none => .fault .absentSlot
  | some q =>
    match blockValues s.wsSet q with
    | none =>
      match firstInvalid s.wsSet q with
      | some c => .next (raiseFault .eChar c s)
      | none => .fault .whitespaceInQuad
    | some v =>
      if 2 < s.pad.toNat then .next (raiseFault .ePad (s.pad.setWidth byteBits) s)
      else .next (decodeGoodBlock v s)

/-- QUAD[NCH] <- b, and PAD counts it if it is `=` (R172). -/
def collect (c : Byte) (s : State) : State :=
  { s with quad := s.quad.write s.nch c, pad := if c = padChar then s.pad + 1#3 else s.pad }

/-- Take one significant character (R172, R174): store it as it is, count it, and decode the block when it is the fourth.
NCH = 4 is never stored (R27, C6). -/
def storeChar (c : Byte) (s : State) : Result :=
  if s.nch.toNat + 1 = blockSym then decodeBlock (collect c s)
  else .next { collect c s with nch := s.nch + 1#2 }

/-- A significant character in phase DEC (R174). -/
def acceptChar (c : Byte) (s : State) : Result := inPhase .dec s (storeChar c)

/-- A whitespace byte in phase DEC: accepted and ignored (R173). -/
def skipWhitespace (s : State) : Result := inPhase .dec s fun s => .next s

/-- End of stream (R186): normal on a block boundary (R187), else E_LEN with NCH as the detail (R188). -/
def finishDecode (s : State) : Result :=
  if s.nch = 0#2 then .next (endSession s) else .next (raiseFault .eLen (s.nch.setWidth byteBits) s)

/-- DEC.EOS (R186). -/
def execDecEos (s : State) : Result := inPhase .dec s finishDecode

/-- DEC.SYM.0, the character `A` (R174). -/
def execDecSym0 (s : State) : Result := acceptChar 0x41#8 s

/-- DEC.SYM.1, the character `B` (R174). -/
def execDecSym1 (s : State) : Result := acceptChar 0x42#8 s

/-- DEC.SYM.2, the character `C` (R174). -/
def execDecSym2 (s : State) : Result := acceptChar 0x43#8 s

/-- DEC.SYM.3, the character `D` (R174). -/
def execDecSym3 (s : State) : Result := acceptChar 0x44#8 s

/-- DEC.SYM.4, the character `E` (R174). -/
def execDecSym4 (s : State) : Result := acceptChar 0x45#8 s

/-- DEC.SYM.5, the character `F` (R174). -/
def execDecSym5 (s : State) : Result := acceptChar 0x46#8 s

/-- DEC.SYM.6, the character `G` (R174). -/
def execDecSym6 (s : State) : Result := acceptChar 0x47#8 s

/-- DEC.SYM.7, the character `H` (R174). -/
def execDecSym7 (s : State) : Result := acceptChar 0x48#8 s

/-- DEC.SYM.8, the character `I` (R174). -/
def execDecSym8 (s : State) : Result := acceptChar 0x49#8 s

/-- DEC.SYM.9, the character `J` (R174). -/
def execDecSym9 (s : State) : Result := acceptChar 0x4A#8 s

/-- DEC.SYM.10, the character `K` (R174). -/
def execDecSym10 (s : State) : Result := acceptChar 0x4B#8 s

/-- DEC.SYM.11, the character `L` (R174). -/
def execDecSym11 (s : State) : Result := acceptChar 0x4C#8 s

/-- DEC.SYM.12, the character `M` (R174). -/
def execDecSym12 (s : State) : Result := acceptChar 0x4D#8 s

/-- DEC.SYM.13, the character `N` (R174). -/
def execDecSym13 (s : State) : Result := acceptChar 0x4E#8 s

/-- DEC.SYM.14, the character `O` (R174). -/
def execDecSym14 (s : State) : Result := acceptChar 0x4F#8 s

/-- DEC.SYM.15, the character `P` (R174). -/
def execDecSym15 (s : State) : Result := acceptChar 0x50#8 s

/-- DEC.SYM.16, the character `Q` (R174). -/
def execDecSym16 (s : State) : Result := acceptChar 0x51#8 s

/-- DEC.SYM.17, the character `R` (R174). -/
def execDecSym17 (s : State) : Result := acceptChar 0x52#8 s

/-- DEC.SYM.18, the character `S` (R174). -/
def execDecSym18 (s : State) : Result := acceptChar 0x53#8 s

/-- DEC.SYM.19, the character `T` (R174). -/
def execDecSym19 (s : State) : Result := acceptChar 0x54#8 s

/-- DEC.SYM.20, the character `U` (R174). -/
def execDecSym20 (s : State) : Result := acceptChar 0x55#8 s

/-- DEC.SYM.21, the character `V` (R174). -/
def execDecSym21 (s : State) : Result := acceptChar 0x56#8 s

/-- DEC.SYM.22, the character `W` (R174). -/
def execDecSym22 (s : State) : Result := acceptChar 0x57#8 s

/-- DEC.SYM.23, the character `X` (R174). -/
def execDecSym23 (s : State) : Result := acceptChar 0x58#8 s

/-- DEC.SYM.24, the character `Y` (R174). -/
def execDecSym24 (s : State) : Result := acceptChar 0x59#8 s

/-- DEC.SYM.25, the character `Z` (R174). -/
def execDecSym25 (s : State) : Result := acceptChar 0x5A#8 s

/-- DEC.SYM.26, the character `a` (R174). -/
def execDecSym26 (s : State) : Result := acceptChar 0x61#8 s

/-- DEC.SYM.27, the character `b` (R174). -/
def execDecSym27 (s : State) : Result := acceptChar 0x62#8 s

/-- DEC.SYM.28, the character `c` (R174). -/
def execDecSym28 (s : State) : Result := acceptChar 0x63#8 s

/-- DEC.SYM.29, the character `d` (R174). -/
def execDecSym29 (s : State) : Result := acceptChar 0x64#8 s

/-- DEC.SYM.30, the character `e` (R174). -/
def execDecSym30 (s : State) : Result := acceptChar 0x65#8 s

/-- DEC.SYM.31, the character `f` (R174). -/
def execDecSym31 (s : State) : Result := acceptChar 0x66#8 s

/-- DEC.SYM.32, the character `g` (R174). -/
def execDecSym32 (s : State) : Result := acceptChar 0x67#8 s

/-- DEC.SYM.33, the character `h` (R174). -/
def execDecSym33 (s : State) : Result := acceptChar 0x68#8 s

/-- DEC.SYM.34, the character `i` (R174). -/
def execDecSym34 (s : State) : Result := acceptChar 0x69#8 s

/-- DEC.SYM.35, the character `j` (R174). -/
def execDecSym35 (s : State) : Result := acceptChar 0x6A#8 s

/-- DEC.SYM.36, the character `k` (R174). -/
def execDecSym36 (s : State) : Result := acceptChar 0x6B#8 s

/-- DEC.SYM.37, the character `l` (R174). -/
def execDecSym37 (s : State) : Result := acceptChar 0x6C#8 s

/-- DEC.SYM.38, the character `m` (R174). -/
def execDecSym38 (s : State) : Result := acceptChar 0x6D#8 s

/-- DEC.SYM.39, the character `n` (R174). -/
def execDecSym39 (s : State) : Result := acceptChar 0x6E#8 s

/-- DEC.SYM.40, the character `o` (R174). -/
def execDecSym40 (s : State) : Result := acceptChar 0x6F#8 s

/-- DEC.SYM.41, the character `p` (R174). -/
def execDecSym41 (s : State) : Result := acceptChar 0x70#8 s

/-- DEC.SYM.42, the character `q` (R174). -/
def execDecSym42 (s : State) : Result := acceptChar 0x71#8 s

/-- DEC.SYM.43, the character `r` (R174). -/
def execDecSym43 (s : State) : Result := acceptChar 0x72#8 s

/-- DEC.SYM.44, the character `s` (R174). -/
def execDecSym44 (s : State) : Result := acceptChar 0x73#8 s

/-- DEC.SYM.45, the character `t` (R174). -/
def execDecSym45 (s : State) : Result := acceptChar 0x74#8 s

/-- DEC.SYM.46, the character `u` (R174). -/
def execDecSym46 (s : State) : Result := acceptChar 0x75#8 s

/-- DEC.SYM.47, the character `v` (R174). -/
def execDecSym47 (s : State) : Result := acceptChar 0x76#8 s

/-- DEC.SYM.48, the character `w` (R174). -/
def execDecSym48 (s : State) : Result := acceptChar 0x77#8 s

/-- DEC.SYM.49, the character `x` (R174). -/
def execDecSym49 (s : State) : Result := acceptChar 0x78#8 s

/-- DEC.SYM.50, the character `y` (R174). -/
def execDecSym50 (s : State) : Result := acceptChar 0x79#8 s

/-- DEC.SYM.51, the character `z` (R174). -/
def execDecSym51 (s : State) : Result := acceptChar 0x7A#8 s

/-- DEC.SYM.52, the character `0` (R174). -/
def execDecSym52 (s : State) : Result := acceptChar 0x30#8 s

/-- DEC.SYM.53, the character `1` (R174). -/
def execDecSym53 (s : State) : Result := acceptChar 0x31#8 s

/-- DEC.SYM.54, the character `2` (R174). -/
def execDecSym54 (s : State) : Result := acceptChar 0x32#8 s

/-- DEC.SYM.55, the character `3` (R174). -/
def execDecSym55 (s : State) : Result := acceptChar 0x33#8 s

/-- DEC.SYM.56, the character `4` (R174). -/
def execDecSym56 (s : State) : Result := acceptChar 0x34#8 s

/-- DEC.SYM.57, the character `5` (R174). -/
def execDecSym57 (s : State) : Result := acceptChar 0x35#8 s

/-- DEC.SYM.58, the character `6` (R174). -/
def execDecSym58 (s : State) : Result := acceptChar 0x36#8 s

/-- DEC.SYM.59, the character `7` (R174). -/
def execDecSym59 (s : State) : Result := acceptChar 0x37#8 s

/-- DEC.SYM.60, the character `8` (R174). -/
def execDecSym60 (s : State) : Result := acceptChar 0x38#8 s

/-- DEC.SYM.61, the character `9` (R174). -/
def execDecSym61 (s : State) : Result := acceptChar 0x39#8 s

/-- DEC.SYM.62, the character `+` (R174). -/
def execDecSym62 (s : State) : Result := acceptChar 0x2B#8 s

/-- DEC.SYM.63, the character `/` (R174). -/
def execDecSym63 (s : State) : Result := acceptChar 0x2F#8 s

/-- DEC.PAD, the marker `=` (R174). -/
def execDecPad (s : State) : Result := acceptChar 0x3D#8 s

/-- DEC.WS.HT, the byte 0x09 (R173). -/
def execDecWsHt (s : State) : Result := skipWhitespace s

/-- DEC.WS.LF, the byte 0x0A (R173). -/
def execDecWsLf (s : State) : Result := skipWhitespace s

/-- DEC.WS.VT, the byte 0x0B (R173). -/
def execDecWsVt (s : State) : Result := skipWhitespace s

/-- DEC.WS.FF, the byte 0x0C (R173). -/
def execDecWsFf (s : State) : Result := skipWhitespace s

/-- DEC.WS.CR, the byte 0x0D (R173). -/
def execDecWsCr (s : State) : Result := skipWhitespace s

/-- DEC.WS.SP, the byte 0x20 (R173). -/
def execDecWsSp (s : State) : Result := skipWhitespace s

/-- DEC.INV, any byte of class INV (R174): stored, and reported when its block completes (R104). -/
def execDecInv (c : Byte) (s : State) : Result := acceptChar c s

end Sys2Proof.Machine
end

