-- ==== Sys2Proof/Machine/Encoder.lean ====
section
/-! DEFINITION. The encoder (spec/41_encoder.md): `EmitChar` (R149), `EncodeBlock` (R144), and the instructions ENC.IN
(R143) and ENC.EOS (R150). -/

namespace Sys2Proof.Machine

/-- `EmitChar(c)` (R149): emit one character and wrap the line at `lineWidth`. -/
def emitChar (c : Byte) (s : State) : State :=
  let s := emit c s
  if s.col.toNat + 1 = lineWidth then { emit newline s with col := 0#7 } else { s with col := s.col + 1#7 }

/-- Step 4 for one symbol (R147): take the next offset, add it modulo 64, map through the alphabet. -/
def encodeSym (v : Sextet) (s : State) : Byte × State :=
  let (off, s) := ksNext s
  (alpha (addMod v off), s)

/-- The end of `EncodeBlock` (R144): CNT <- 0, and every slot of BUF holds no value. -/
def clearChunk (s : State) : State := { s with cnt := 0#2, buf := ChunkBuf.empty }

/-- `EncodeBlock(n)` (R144): encode the chunk of `n` raw bytes in BUF. All four symbols take their offset, also those that a
padding marker then overwrites (R153). -/
def encodeBlock (n : Nat) (s : State) : Result :=
  match chunkBytes n s.buf with
  | none => .fault .absentSlot
  | some r =>
    let t := packSextets r
    let (c0, s) := encodeSym t.s0 s
    let (c1, s) := encodeSym t.s1 s
    let (c2, s) := encodeSym t.s2 s
    let (c3, s) := encodeSym t.s3 s
    let c3 := if n < blockRaw then padChar else c3
    let c2 := if n < 2 then padChar else c2
    .next (clearChunk (emitChar c3 (emitChar c2 (emitChar c1 (emitChar c0 s)))))

/-- Take one raw byte (R143): `BUF[CNT] <- b`, and the third byte completes the block. -/
def storeRaw (b : Byte) (s : State) : Result :=
  match s.buf.write s.cnt.toNat b with
  | none => .fault .noSuchSlot
  | some buf =>
    if s.cnt.toNat + 1 = blockRaw then encodeBlock blockRaw { s with buf := buf }
    else .next { s with buf := buf, cnt := s.cnt + 1#2 }

/-- The final newline and the end of the session (R150): a newline only where a character stands on the line. -/
def closeLine (s : State) : State :=
  endSession (if s.col = 0#7 then s else { emit newline s with col := 0#7 })

/-- End of stream (R150): the short final block, then the final newline. -/
def finishEncode (s : State) : Result :=
  if s.cnt = 0#2 then .next (closeLine s)
  else
    match encodeBlock s.cnt.toNat s with
    | .next s => .next (closeLine s)
    | .fault f => .fault f
    | .refused r => .refused r

/-- ENC.IN (R143). -/
def execEncIn (b : Byte) (s : State) : Result := inPhase .enc s (storeRaw b)

/-- ENC.EOS (R150). -/
def execEncEos (s : State) : Result := inPhase .enc s finishEncode

end Sys2Proof.Machine
end

