-- ==== Sys2Proof/Machine/Session.lean ====
section
/-! DEFINITION. The commands ENC and DEC (spec/43_session_control.md rules R210 and R211). -/

namespace Sys2Proof.Machine

/-- ENC kb, ki (R210): `SessionInit`, then PHASE <- ENC. -/
def execEnc (kb ki : Sextet) (s : State) : Result :=
  inPhase .idle s fun s => .next { sessionInit kb ki s with phase := .enc }

/-- DEC kb, ki (R211): `SessionInit`, then PHASE <- DEC. -/
def execDec (kb ki : Sextet) (s : State) : Result :=
  inPhase .idle s fun s => .next { sessionInit kb ki s with phase := .dec }

end Sys2Proof.Machine
end

