-- ==== Sys2Proof/Machine/Dispatch.lean ====
section
/-! DEFINITION. The dispatch: one arm per row of spec/opcode_table.json, each one call of that row's meaning. -/

namespace Sys2Proof.Machine

def exec (i : Instr) (s : State) : Host.Outcome State Fault Refusal :=
  match i with
  | .enc kb ki => Sys2Proof.Machine.execEnc kb ki s
  | .dec kb ki => Sys2Proof.Machine.execDec kb ki s
  | .encIn b => Sys2Proof.Machine.execEncIn b s
  | .encEos => Sys2Proof.Machine.execEncEos s
  | .decEos => Sys2Proof.Machine.execDecEos s
  | .decSym0 => Sys2Proof.Machine.execDecSym0 s
  | .decSym1 => Sys2Proof.Machine.execDecSym1 s
  | .decSym2 => Sys2Proof.Machine.execDecSym2 s
  | .decSym3 => Sys2Proof.Machine.execDecSym3 s
  | .decSym4 => Sys2Proof.Machine.execDecSym4 s
  | .decSym5 => Sys2Proof.Machine.execDecSym5 s
  | .decSym6 => Sys2Proof.Machine.execDecSym6 s
  | .decSym7 => Sys2Proof.Machine.execDecSym7 s
  | .decSym8 => Sys2Proof.Machine.execDecSym8 s
  | .decSym9 => Sys2Proof.Machine.execDecSym9 s
  | .decSym10 => Sys2Proof.Machine.execDecSym10 s
  | .decSym11 => Sys2Proof.Machine.execDecSym11 s
  | .decSym12 => Sys2Proof.Machine.execDecSym12 s
  | .decSym13 => Sys2Proof.Machine.execDecSym13 s
  | .decSym14 => Sys2Proof.Machine.execDecSym14 s
  | .decSym15 => Sys2Proof.Machine.execDecSym15 s
  | .decSym16 => Sys2Proof.Machine.execDecSym16 s
  | .decSym17 => Sys2Proof.Machine.execDecSym17 s
  | .decSym18 => Sys2Proof.Machine.execDecSym18 s
  | .decSym19 => Sys2Proof.Machine.execDecSym19 s
  | .decSym20 => Sys2Proof.Machine.execDecSym20 s
  | .decSym21 => Sys2Proof.Machine.execDecSym21 s
  | .decSym22 => Sys2Proof.Machine.execDecSym22 s
  | .decSym23 => Sys2Proof.Machine.execDecSym23 s
  | .decSym24 => Sys2Proof.Machine.execDecSym24 s
  | .decSym25 => Sys2Proof.Machine.execDecSym25 s
  | .decSym26 => Sys2Proof.Machine.execDecSym26 s
  | .decSym27 => Sys2Proof.Machine.execDecSym27 s
  | .decSym28 => Sys2Proof.Machine.execDecSym28 s
  | .decSym29 => Sys2Proof.Machine.execDecSym29 s
  | .decSym30 => Sys2Proof.Machine.execDecSym30 s
  | .decSym31 => Sys2Proof.Machine.execDecSym31 s
  | .decSym32 => Sys2Proof.Machine.execDecSym32 s
  | .decSym33 => Sys2Proof.Machine.execDecSym33 s
  | .decSym34 => Sys2Proof.Machine.execDecSym34 s
  | .decSym35 => Sys2Proof.Machine.execDecSym35 s
  | .decSym36 => Sys2Proof.Machine.execDecSym36 s
  | .decSym37 => Sys2Proof.Machine.execDecSym37 s
  | .decSym38 => Sys2Proof.Machine.execDecSym38 s
  | .decSym39 => Sys2Proof.Machine.execDecSym39 s
  | .decSym40 => Sys2Proof.Machine.execDecSym40 s
  | .decSym41 => Sys2Proof.Machine.execDecSym41 s
  | .decSym42 => Sys2Proof.Machine.execDecSym42 s
  | .decSym43 => Sys2Proof.Machine.execDecSym43 s
  | .decSym44 => Sys2Proof.Machine.execDecSym44 s
  | .decSym45 => Sys2Proof.Machine.execDecSym45 s
  | .decSym46 => Sys2Proof.Machine.execDecSym46 s
  | .decSym47 => Sys2Proof.Machine.execDecSym47 s
  | .decSym48 => Sys2Proof.Machine.execDecSym48 s
  | .decSym49 => Sys2Proof.Machine.execDecSym49 s
  | .decSym50 => Sys2Proof.Machine.execDecSym50 s
  | .decSym51 => Sys2Proof.Machine.execDecSym51 s
  | .decSym52 => Sys2Proof.Machine.execDecSym52 s
  | .decSym53 => Sys2Proof.Machine.execDecSym53 s
  | .decSym54 => Sys2Proof.Machine.execDecSym54 s
  | .decSym55 => Sys2Proof.Machine.execDecSym55 s
  | .decSym56 => Sys2Proof.Machine.execDecSym56 s
  | .decSym57 => Sys2Proof.Machine.execDecSym57 s
  | .decSym58 => Sys2Proof.Machine.execDecSym58 s
  | .decSym59 => Sys2Proof.Machine.execDecSym59 s
  | .decSym60 => Sys2Proof.Machine.execDecSym60 s
  | .decSym61 => Sys2Proof.Machine.execDecSym61 s
  | .decSym62 => Sys2Proof.Machine.execDecSym62 s
  | .decSym63 => Sys2Proof.Machine.execDecSym63 s
  | .decPad => Sys2Proof.Machine.execDecPad s
  | .decWsHt => Sys2Proof.Machine.execDecWsHt s
  | .decWsLf => Sys2Proof.Machine.execDecWsLf s
  | .decWsVt => Sys2Proof.Machine.execDecWsVt s
  | .decWsFf => Sys2Proof.Machine.execDecWsFf s
  | .decWsCr => Sys2Proof.Machine.execDecWsCr s
  | .decWsSp => Sys2Proof.Machine.execDecWsSp s
  | .decInv c => Sys2Proof.Machine.execDecInv c s

end Sys2Proof.Machine
end

