-- ==== Sys2Proof/Machine/Fetch.lean ====
section
/-! DEFINITION. How the core takes its next event. It fetches no instructions (R30): the host offers events on the ports and
the core accepts one per step, by phase (R10, R75, R218). -/

namespace Sys2Proof.Machine

/-- The acceptance table (R218): which offered event the core accepts in its present state. -/
def accepts (s : State) : Offer → Bool
  | .reset => true
  | .out => !s.outq.isEmpty
  | .word (.cmd _) => s.phase == .idle
  | .word (.beat _) => s.phase == .enc || s.phase == .dec

/-- The first element of a list that passes a test, and the list without it. -/
def takeFirst {α : Type} (p : α → Bool) : List α → Option (α × List α)
  | [] => none
  | a :: as =>
    if p a then some (a, as)
    else
      match takeFirst p as with
      | none => none
      | some (b, rest) => some (b, a :: rest)

/-- The event the core accepts next: the earliest offered one that its present phase accepts. The events it does not accept
stay offered, in their order (R218, R219, R226; assumption 4). -/
def nextOffer (s : State) : Option (Offer × List Offer) := takeFirst (accepts s) s.offers

/-- The effect of an accepted word: the instruction it decodes to in the present phase (R112). A whitespace byte without a
row of the table is accepted and ignored like any other (R173). -/
def runWord (w : PortWord) (s : State) : Result :=
  match decode s.wsSet s.phase w with
  | .instr i => exec i s
  | .rejected (.wsWithoutRow _) => skipWhitespace s
  | .rejected .held => .next s

/-- The effect of an accepted event (R10, R225). -/
def runOffer (o : Offer) (s : State) : Result :=
  match o with
  | .word w => runWord w s
  | .out => .next (takeOut s)
  | .reset => .next (resetCore s)

/-- RESET asserted on its line: it wins over every offered event, none of which is accepted in that step (R255, R280), and
the host lowers the line. -/
def resetByLine (s : State) : State := { resetCore s with resetLine := false }

/-- A word offered before everything else, in a phase. -/
def placeWord (ph : Phase) (w : PortWord) (s : State) : State :=
  { s with phase := ph, resetLine := false, offers := .word w :: s.offers }

end Sys2Proof.Machine
end

