-- ==== Sys2Proof/Machine/Step.lean ====
section
/-! DEFINITION. One step of the machine (spec/43_session_control.md rules R218 and R225): the whole effect of one accepted
event. With no event to accept the core does nothing (R258) and the held events stay offered (R218). -/

namespace Sys2Proof.Machine

/-- One step: RESET on its line, else the next accepted event, else nothing. -/
def step (s : State) : Host.Outcome State Fault Refusal :=
  if s.resetLine then .next (resetByLine s)
  else
    match nextOffer s with
    | none => .next s
    | some (o, rest) => runOffer o { s with offers := rest }

/-- The state with a word of the table offered first, in the phase in which `decodeTableWord` reads it, so that the very
next step accepts and runs it (assumptions 7 and 8). -/
def State.withFetchWord (s : State) (nbits w : Nat) : State :=
  match tableReading nbits w with
  | none => s
  | some (ph, pw) => placeWord ph pw s

end Sys2Proof.Machine
end

