-- ==== Sys2Proof/Machine/SessionFunctions.lean ====
section
/-! DEFINITION. A whole session as a function of its command and its input: `Encode(S, kb, ki)` (spec/41_encoder.md rule
R156) and `Decode(T, kb, ki)` (spec/42_decoder.md rule R190), written from those two rules and not from the machine. The
machine does not use them; statements compare it with them. -/

namespace Sys2Proof.Machine

/-! ### The encoder (R156) -/

/-- The character of a sextet at symbol position `j` of a session: `ALPHA[fmod64(s + kb + j*ki)]`, with the key base given
as a number (R125, R156). -/
def keyedChar (kb ki j : Nat) (s : Sextet) : Byte :=
  alpha (fmod64 ((s.toNat : Int) + (kb : Int) + (j : Int) * (ki : Int)))

/-- The four characters of one block of `m` raw bytes whose first symbol has position `j`, markers included (R156). The
bytes past the first `m` are given as zero. -/
def blockChars (kb ki j m : Nat) (r : RawBlock) : List Byte :=
  let t := packSextets r
  [ keyedChar kb ki j t.s0,
    keyedChar kb ki (j + 1) t.s1,
    (if m < 2 then padChar else keyedChar kb ki (j + 2) t.s2),
    (if m < blockRaw then padChar else keyedChar kb ki (j + 3) t.s3) ]

/-- The characters `t[j], t[j+1], ...` of an input of which `j` symbols are already out (R156). -/
def encodeChars (kb ki : Nat) : Nat → List Byte → List Byte
  | _, [] => []
  | j, [x] => blockChars kb ki j 1 { b0 := x, b1 := 0x00#byteBits, b2 := 0x00#byteBits }
  | j, [x, y] => blockChars kb ki j 2 { b0 := x, b1 := y, b2 := 0x00#byteBits }
  | j, x :: y :: z :: rest =>
    blockChars kb ki j blockRaw { b0 := x, b1 := y, b2 := z } ++ encodeChars kb ki (j + 4) rest

/-- A newline after every character `t[j]` with `(j+1) mod 76 = 0`, and one at the end if the number of characters is not a
multiple of 76 (R156); `j` characters are already out. -/
def wrapLines : Nat → List Byte → List Byte
  | j, [] => if j % lineWidth = 0 then [] else [newline]
  | j, c :: cs =>
    if (j + 1) % lineWidth = 0 then c :: newline :: wrapLines (j + 1) cs else c :: wrapLines (j + 1) cs

/-- `Encode(S, kb, ki)` (R156). -/
def encodeFunction (S : List Byte) (kb ki : Sextet) : List Byte :=
  wrapLines 0 (encodeChars kb.toNat ki.toNat 0 S)

/-- The key state after the four `KsNext` of a block that starts from key state `k` with increment `inc`: the fourth offset
plus the increment, not reduced (R122, R125). -/
def keyAfterBlock (k inc : Nat) : BitVec 7 := BitVec.ofNat 7 ((k + 3 * inc) % alphabetSize + inc)

/-! ### The decoder (R190) -/

/-- How a decode session ends (R190). -/
inductive SessionEnd where
  /-- DONE -/
  | done
  /-- FAULT with its code and detail -/
  | fault (code : ErrCode) (info : Byte)
deriving DecidableEq, Repr

/-- The sextet of a value at symbol position `j`: `fmod64(v - (kb + j*ki))` (R190). -/
def unkeyedSym (kb ki j : Nat) (v : Sextet) : Sextet :=
  fmod64 ((v.toNat : Int) - ((kb : Int) + (j : Int) * (ki : Int)))

/-- The number of markers among the four characters (R190). -/
def markerCount (q : CharBlock) : Nat := [q.c0, q.c1, q.c2, q.c3].count padChar

/-- The three bytes of a block of values whose first symbol has position `j` (R190). -/
def blockBytes (kb ki j : Nat) (v : SymBlock) : List Byte :=
  let r := unpackBytes
    { s0 := unkeyedSym kb ki j v.s0
      s1 := unkeyedSym kb ki (j + 1) v.s1
      s2 := unkeyedSym kb ki (j + 2) v.s2
      s3 := unkeyedSym kb ki (j + 3) v.s3 }
  [r.b0, r.b1, r.b2]

/-- The value of a significant character: 0 for `=`, else its alphabet index (R190). -/
def significantValue (c : Byte) : Sextet := if c = padChar then 0#symBits else (symIndex c).getD 0#symBits

/-- The output and the end of a decode session on significant characters only, the first of them at symbol position `j`
(R190). -/
def decodeBlocks (ws : WsSet) (kb ki : Nat) : Nat → List Byte → List Byte × SessionEnd
  | _, [] => ([], .done)
  | _, [_] => ([], .fault .eLen 1#byteBits)
  | _, [_, _] => ([], .fault .eLen 2#byteBits)
  | _, [_, _, _] => ([], .fault .eLen 3#byteBits)
  | j, x :: y :: z :: w :: rest =>
    let q : CharBlock := { c0 := x, c1 := y, c2 := z, c3 := w }
    match firstInvalid ws q with
    | some c => ([], .fault .eChar c)
    | none =>
      if 2 < markerCount q then ([], .fault .ePad (BitVec.ofNat byteBits (markerCount q)))
      else
        let v : SymBlock :=
          { s0 := significantValue x
            s1 := significantValue y
            s2 := significantValue z
            s3 := significantValue w }
        let out := (blockBytes kb ki j v).take (blockRaw - markerCount q)
        let next := decodeBlocks ws kb ki (j + 4) rest
        (out ++ next.1, next.2)

/-- `Decode(T, kb, ki)` (R190): the bytes of `WS_SET` are removed first. -/
def decodeFunction (ws : WsSet) (T : List Byte) (kb ki : Sextet) : List Byte × SessionEnd :=
  decodeBlocks ws kb.toNat ki.toNat 0 (T.filter (fun c => c ∉ ws))

end Sys2Proof.Machine
end

