-- ==== Sys2Proof/Safety.lean ====
section
/-! DEFINITION. What counts as a safe run, and the terms in which sessions are stated: the invariant of spec/10_state.md rule
R40 with the legal STATUS combinations of rule R36, the runs that never stop, and a session as a list of offered events. -/

namespace Sys2Proof.Safety

open Sys2Proof.Machine

/-! ### The invariant -/

/-- Exactly the first `n` slots of BUF hold a value (R23). -/
def BufFilled (n : Nat) (b : ChunkBuf) : Prop :=
  (b.b0.isSome ↔ 0 < n) ∧ (b.b1.isSome ↔ 1 < n) ∧ (b.b2.isSome ↔ 2 < n)

/-- The four slots of QUAD in order. -/
def quadSlots (q : QuadBuf) : List (Option Byte) := [q.c0, q.c1, q.c2, q.c3]

/-- Exactly the first `n` slots of QUAD hold a value (R26). -/
def QuadFilled (n : Nat) (q : QuadBuf) : Prop :=
  (q.c0.isSome ↔ 0 < n) ∧ (q.c1.isSome ↔ 1 < n) ∧ (q.c2.isSome ↔ 2 < n) ∧ (q.c3.isSome ↔ 3 < n)

/-- The registers of a running encode session (R40, R155). -/
structure EncLegal (s : State) : Prop where
  /-- 0 ≤ CNT ≤ 2 -/
  cnt_lt : s.cnt.toNat < blockRaw
  /-- 0 ≤ COL ≤ 75 -/
  col_lt : s.col.toNat < lineWidth
  /-- COL is a multiple of 4 (R155) -/
  col_dvd : blockSym ∣ s.col.toNat
  /-- 0 ≤ K ≤ 126 (R126) -/
  k_le : s.k.toNat ≤ kMax
  /-- BUF[0..CNT-1] hold values, and no other slot does (R23) -/
  buf : BufFilled s.cnt.toNat s.buf

/-- The registers of a running decode session (R40). -/
structure DecLegal (s : State) : Prop where
  /-- 0 ≤ K ≤ 126 (R126) -/
  k_le : s.k.toNat ≤ kMax
  /-- QUAD[0..NCH-1] hold values, and no other slot does (R26) -/
  quad : QuadFilled s.nch.toNat s.quad
  /-- PAD is the number of markers in QUAD (R28) -/
  pad : s.pad.toNat = (quadSlots s.quad).count (some padChar)
  /-- no character in QUAD is in `WS_SET` -/
  significant : ∀ c, some c ∈ quadSlots s.quad → c ∉ s.wsSet

/-- The detail a fault leaves in ERRINFO (R36, R246). -/
def FaultDetailLegal (s : State) : Prop :=
  (s.err = .eLen ∧ 1 ≤ s.errInfo.toNat ∧ s.errInfo.toNat ≤ 3) ∨
  (s.err = .eChar ∧ classify s.wsSet s.errInfo = .inv) ∨
  (s.err = .ePad ∧ 3 ≤ s.errInfo.toNat ∧ s.errInfo.toNat ≤ 4)

/-- The legal combinations of the STATUS fields (R36). -/
structure StatusLegal (s : State) : Prop where
  /-- DONE = 1 implies PHASE = IDLE (R32) -/
  done_idle : s.done = true → s.phase = .idle
  /-- outside FAULT there is no fault code and no detail (R34, R35) -/
  no_fault : s.phase ≠ .fault → s.err = .none ∧ s.errInfo = 0#byteBits
  /-- in FAULT there is a code with its detail -/
  fault : s.phase = .fault → FaultDetailLegal s

/-- The invariant of the core (R8, R36, R40): it holds after RESET and every step keeps it. -/
structure Inv (s : State) : Prop where
  /-- `WS_SET` meets the constraints of R8 -/
  ws : Config.wsLegal s.wsSet = true
  /-- the STATUS fields are a legal combination (R36) -/
  status : StatusLegal s
  /-- the encoder's registers in phase ENC (R40) -/
  enc : s.phase = .enc → EncLegal s
  /-- the decoder's registers in phase DEC (R40) -/
  dec : s.phase = .dec → DecLegal s

/-! ### Safe runs -/

/-- A run from `s` is safe when no number of steps ends in a fault or a refusal of the model: every rule of the spec only
reads registers that hold a value (R44), and the block itself never stops (R225). -/
def SafeFrom (s : State) : Prop := ∀ n : Nat, ∃ t : State, Host.Core.run Sys2Proof.core n s = .next t

/-! ### Sessions -/

/-- A session as the host offers it: the command word, the bytes of the stream, one EOS (R221, R283). -/
def sessionOffers (cmd : PortWord) (S : List Byte) : List Offer :=
  .word cmd :: (S.map (fun b => Offer.word (dataBeat b)) ++ [.word eosBeat])

/-- A core that can start a session: PHASE = IDLE and RESET not asserted. -/
structure ReadyFor (s : State) (offers : List Offer) : Prop where
  /-- PHASE = IDLE -/
  idle : s.phase = .idle
  /-- RESET is not asserted -/
  noReset : s.resetLine = false
  /-- the host offers exactly these events -/
  offered : s.offers = offers

/-- A whole encode session of `S` leads from `s` to `t`: the command, one step for each byte, and EOS (R140, R221). -/
def EncodeRun (s : State) (S : List Byte) (kb ki : Sextet) (t : State) : Prop :=
  ReadyFor s (sessionOffers (cmdWord true kb ki) S) ∧ Host.Core.run Sys2Proof.core (S.length + 2) s = .next t

/-- A whole decode session of `T` leads from `s` to `t`; after a fault the remaining beats are not accepted and the steps
left over change nothing (R170, R221, R247). -/
def DecodeRun (s : State) (T : List Byte) (kb ki : Sextet) (t : State) : Prop :=
  ReadyFor s (sessionOffers (cmdWord false kb ki) T) ∧ Host.Core.run Sys2Proof.core (T.length + 2) s = .next t

/-- The STATUS fields with which a session ends (R190, R214, R247). -/
def EndsAs (t : State) : SessionEnd → Prop
  | .done => t.phase = .idle ∧ t.done = true ∧ t.err = .none ∧ t.errInfo = 0#byteBits
  | .fault code info => t.phase = .fault ∧ t.done = false ∧ t.err = code ∧ t.errInfo = info

end Sys2Proof.Safety
end

