-- ==== Sys2Proof/Certificates/Slice0/Obligations.lean ====
section
/-! DEFINITION. The statements about this machine, each with the rule of spec/ it formalises. -/

open Sys2Proof Sys2Proof.Machine Sys2Proof.Safety

/-! ### Encoding -/

/-- Decoding the word of a well-formed instruction, in the phase of its row, gives the instruction back: every row of the
table, with every operand at every value, under every `WS_SET` (R91, R93, R112). -/
def Obligations.DecodeOfEncodeIsIdentity : Prop :=
  ∀ (ws : WsSet) (i : Instr), i.wellFormed ws = true → decode ws i.phase (encode i) = .instr i

/-- What the decoder answers is a well-formed row of the phase it was asked in, and encoding that row gives the word back,
except that an end-of-stream beat comes back with its ignored data bits zero (R105, R112). -/
def Obligations.EncodeOfDecodeIsIdentity : Prop :=
  ∀ (ws : WsSet) (ph : Phase) (w : PortWord) (i : Instr), decode ws ph w = .instr i →
    i.phase = ph ∧ i.wellFormed ws = true ∧
      (encode i = w ∨ ∃ b : BeatWord, w = .beat b ∧ beatEos b = true ∧ encode i = eosBeat)

/-- A few words written out from R91, R93 and R96 decode to the instruction they stand for (vectors V100 to V102). -/
def Obligations.WrittenWordsDecode : Prop :=
  decode Config.wsDefault .idle (.cmd 0b1000101000111#13) = .instr (.enc 5#6 7#6) ∧
  decode Config.wsDefault .idle (.cmd 0b0001010010101#13) = .instr (.dec 10#6 21#6) ∧
  decode Config.wsDefault .enc (.beat 0b001001101#9) = .instr (.encIn 0x4D#8) ∧
  decode Config.wsDefault .enc (.beat 0b100000000#9) = .instr .encEos ∧
  decode Config.wsDefault .dec (.beat 0b100000000#9) = .instr .decEos ∧
  decode Config.wsDefault .dec (.beat 0b001000001#9) = .instr .decSym0 ∧
  decode Config.wsDefault .dec (.beat 0b000101111#9) = .instr .decSym63 ∧
  decode Config.wsDefault .dec (.beat 0b000111101#9) = .instr .decPad ∧
  decode Config.wsDefault .dec (.beat 0b000001010#9) = .instr .decWsLf ∧
  decode Config.wsDefault .dec (.beat 0b000100001#9) = .instr (.decInv 0x21#8)

/-- The command word (R91, R210, R211): `ENC kb, ki` is the word `0x1000 + 64*kb + ki`, `DEC kb, ki` is `64*kb + ki`, and every
one of the 8192 words is one of them. -/
def Obligations.CommandWordsAreAllLegal : Prop :=
  (∀ (ws : WsSet) (kb ki : Sextet),
    decode ws .idle (.cmd (BitVec.ofNat 13 (0x1000 + 64 * kb.toNat + ki.toNat))) = .instr (.enc kb ki) ∧
    decode ws .idle (.cmd (BitVec.ofNat 13 (64 * kb.toNat + ki.toNat))) = .instr (.dec kb ki)) ∧
  (∀ (ws : WsSet) (w : CmdWord), ∃ kb ki : Sextet,
    decode ws .idle (.cmd w) = .instr (.enc kb ki) ∨ decode ws .idle (.cmd w) = .instr (.dec kb ki))

/-- R105: every command word and every input beat is legal as an encoding, in each phase that accepts its port, and the data
bits of an end-of-stream beat have no effect. In phase DEC a beat whose byte is in `WS_SET` may have no row, and is then
ignored (R173). -/
def Obligations.NoWordIsReservedOrIllegal : Prop :=
  (∀ (ws : WsSet) (w : CmdWord), ∃ i, decode ws .idle (.cmd w) = .instr i) ∧
  (∀ (ws : WsSet) (w : BeatWord), ∃ i, decode ws .enc (.beat w) = .instr i) ∧
  (∀ (ws : WsSet) (w : BeatWord), (∃ i, decode ws .dec (.beat w) = .instr i) ∨
    (beatData w ∈ ws ∧ decode ws .dec (.beat w) = .rejected (.wsWithoutRow (beatData w)))) ∧
  (∀ (ws : WsSet) (b : Byte), decode ws .enc (.beat (1#1 ++ b)) = .instr .encEos ∧
    decode ws .dec (.beat (1#1 ++ b)) = .instr .decEos)

/-- R102: the classes of all 256 byte values under the default `WS_SET`; under another legal one a byte that changes its class
moves between WS and INV. -/
def Obligations.DefaultClassTable : Prop :=
  (∀ (ws : WsSet) (c : Byte), Config.wsLegal ws = true → classify ws c ≠ classify Config.wsDefault c →
    (classify ws c = .ws ∧ classify Config.wsDefault c = .inv) ∨
    (classify ws c = .inv ∧ classify Config.wsDefault c = .ws)) ∧
  ∀ c : Byte,
    classify Config.wsDefault c =
      if c ∈ [0x09#8, 0x0A#8, 0x0B#8, 0x0C#8, 0x0D#8, 0x20#8] then .ws
      else if c = 0x2B#8 then .sym 62#6
      else if c = 0x2F#8 then .sym 63#6
      else if 0x30#8 ≤ c ∧ c ≤ 0x39#8 then .sym (BitVec.ofNat 6 (c.toNat - 0x30 + 52))
      else if c = 0x3D#8 then .pad
      else if 0x41#8 ≤ c ∧ c ≤ 0x5A#8 then .sym (BitVec.ofNat 6 (c.toNat - 0x41))
      else if 0x61#8 ≤ c ∧ c ≤ 0x7A#8 then .sym (BitVec.ofNat 6 (c.toNat - 0x61 + 26))
      else .inv

/-- R101: the index of a character as arithmetic, and `Class` and `ALPHA` invert each other, under every legal `WS_SET`. -/
def Obligations.ClassInvertsAlphabet : Prop :=
  (∀ (ws : WsSet) (c : Byte), Config.wsLegal ws = true →
    (0x41 ≤ c.toNat ∧ c.toNat ≤ 0x5A → classify ws c = .sym (BitVec.ofNat 6 (c.toNat - 0x41))) ∧
    (0x61 ≤ c.toNat ∧ c.toNat ≤ 0x7A → classify ws c = .sym (BitVec.ofNat 6 (c.toNat - 0x61 + 26))) ∧
    (0x30 ≤ c.toNat ∧ c.toNat ≤ 0x39 → classify ws c = .sym (BitVec.ofNat 6 (c.toNat - 0x30 + 52))) ∧
    (c = 0x2B#8 → classify ws c = .sym 62#6) ∧
    (c = 0x2F#8 → classify ws c = .sym 63#6)) ∧
  (∀ (ws : WsSet) (v : Sextet), Config.wsLegal ws = true → classify ws (alpha v) = .sym v) ∧
  (∀ (ws : WsSet) (c : Byte) (v : Sextet), Config.wsLegal ws = true → classify ws c = .sym v → alpha v = c)

/-- R98: the three bytes of four sextets as arithmetic, and packing and unpacking invert each other. -/
def Obligations.PackingIsABijection : Prop :=
  (∀ t : SymBlock,
    (unpackBytes t).b0.toNat = t.s0.toNat * 4 + t.s1.toNat / 16 ∧
    (unpackBytes t).b1.toNat = t.s1.toNat % 16 * 16 + t.s2.toNat / 4 ∧
    (unpackBytes t).b2.toNat = t.s2.toNat % 4 * 64 + t.s3.toNat) ∧
  (∀ r : RawBlock, unpackBytes (packSextets r) = r) ∧
  (∀ t : SymBlock, packSextets (unpackBytes t) = t)

/-! ### Arithmetic and the key scheduler -/

/-- R120: `fmod64(x)` is the unique number from 0 to 63 that differs from `x` by a multiple of 64, it is
`x - 64 * floor(x / 64)`, it is the low 6 bits of a number that is not negative, and the low 6 bits of a negative one in two's
complement of 7 bits or more. -/
def Obligations.FlooredModulusIsUnique : Prop :=
  (∀ x : Int, (64 : Int) ∣ x - ((fmod64 x).toNat : Int)) ∧
  (∀ (x : Int) (r : Nat), r ≤ 63 → (64 : Int) ∣ x - (r : Int) → (fmod64 x).toNat = r) ∧
  (∀ x : Int, ((fmod64 x).toNat : Int) = x - 64 * (x.fdiv 64)) ∧
  (∀ (w : Nat) (b : BitVec w), fmod64 (b.toNat : Int) = b.setWidth 6) ∧
  (∀ (w : Nat) (b : BitVec w), 7 ≤ w → fmod64 b.toInt = b.setWidth 6)

/-- R121: the source's formula `((x mod 64) + 64) mod 64` gives `fmod64(x)` on every integer, with a truncating remainder and
with a floored one. -/
def Obligations.SourceModulusFormulaAgrees : Prop :=
  ∀ x : Int,
    (x.tmod 64 + 64).tmod 64 = ((fmod64 x).toNat : Int) ∧
    (x.fmod 64 + 64).tmod 64 = ((fmod64 x).toNat : Int)

/-- R129: subtracting the offset modulo 64 undoes adding it, and the other way round. -/
def Obligations.SubModInvertsAddMod : Prop :=
  ∀ s off : Sextet, subMod (addMod s off) off = s ∧ addMod (subMod s off) off = s

/-- R122: `KsNext` returns `n = fmod64(K)` and leaves `K = n + INC`, unreduced and at most 126; it writes no other register;
and reducing the sum when it is stored would give the same offsets for ever. -/
def Obligations.KsNextReturnsOffsetAndAdvances : Prop :=
  ∀ s : State,
    (ksNext s).1.toNat = s.k.toNat % 64 ∧
    (ksNext s).2.k.toNat = s.k.toNat % 64 + s.inc.toNat ∧
    (ksNext s).2.k.toNat ≤ 126 ∧
    (ksNext s).2 = { s with k := (ksNext s).2.k } ∧
    ∀ j : Nat,
      ksOffset (ksAdvance^[j] { s with k := (fmod64 ((s.k.toNat % 64 + s.inc.toNat : Nat) : Int)).setWidth 7 }) =
        ksOffset (ksAdvance^[j] (ksNext s).2)

/-- R125: the closed form. From K = KB and INC = KI, call `j` of `KsNext` returns `fmod64(KB + j*KI)` and leaves that offset
plus KI in K; and the offsets repeat after exactly the multiples of `64 / gcd(KI, 64)` calls (which is 1 for KI = 0). -/
def Obligations.KeyScheduleClosedForm : Prop :=
  (∀ (s : State) (kb ki : Sextet) (j : Nat), s.k = kb.setWidth 7 → s.inc = ki →
    ksOffset (ksAdvance^[j] s) = fmod64 ((kb.toNat : Int) + (j : Int) * (ki.toNat : Int)) ∧
    (ksAdvance^[j + 1] s).k.toNat = (kb.toNat + j * ki.toNat) % 64 + ki.toNat) ∧
  (∀ (s : State) (kb ki : Sextet) (p : Nat), s.k = kb.setWidth 7 → s.inc = ki →
    ((∀ j, ksOffset (ksAdvance^[j + p] s) = ksOffset (ksAdvance^[j] s)) ↔ 64 / Nat.gcd ki.toNat 64 ∣ p))

/-! ### Commands -/

/-- R210: the word of ENC; in phase IDLE the command starts an encode session, with every register of R212 at its start value and
OUTQ untouched. That exec answers the same state in every other phase is the model's choice (assumption 12): R218 holds the
command there and gives no transition. -/
def Obligations.EncCommandStartsSession : Prop :=
  ∀ (s : State) (kb ki : Sextet),
    decode s.wsSet .idle (.cmd (BitVec.ofNat 13 (0x1000 + 64 * kb.toNat + ki.toNat))) = .instr (.enc kb ki) ∧
    (s.phase = .idle → exec (.enc kb ki) s = .next
      { s with
        phase := .enc, done := false, err := .none, errInfo := 0#8
        k := BitVec.ofNat 7 kb.toNat, inc := ki
        buf := { b0 := none, b1 := none, b2 := none }, cnt := 0#2, col := 0#7
        quad := { c0 := none, c1 := none, c2 := none, c3 := none }, nch := 0#2, pad := 0#3 }) ∧
    (s.phase ≠ .idle → exec (.enc kb ki) s = .next s)

/-- R211: the word of DEC; in phase IDLE the command starts a decode session. That exec answers the same state in every other
phase is the model's choice (assumption 12): R218 holds the command there and gives no transition. -/
def Obligations.DecCommandStartsSession : Prop :=
  ∀ (s : State) (kb ki : Sextet),
    decode s.wsSet .idle (.cmd (BitVec.ofNat 13 (64 * kb.toNat + ki.toNat))) = .instr (.dec kb ki) ∧
    (s.phase = .idle → exec (.dec kb ki) s = .next
      { s with
        phase := .dec, done := false, err := .none, errInfo := 0#8
        k := BitVec.ofNat 7 kb.toNat, inc := ki
        buf := { b0 := none, b1 := none, b2 := none }, cnt := 0#2, col := 0#7
        quad := { c0 := none, c1 := none, c2 := none, c3 := none }, nch := 0#2, pad := 0#3 }) ∧
    (s.phase ≠ .idle → exec (.dec kb ki) s = .next s)

/-- The model's choice (assumption 12): exec of a row of the table in any phase but its own answers the same state. R218 holds the
event there and gives no transition, so a step never asks exec for it. -/
def Obligations.InstructionsAreHeldInOtherPhases : Prop :=
  ∀ (i : Instr) (s : State), s.phase ≠ i.phase → exec i s = .next s

/-! ### The encoder -/

/-- R143: the first and the second byte of a chunk are only stored, and counted. -/
def Obligations.EncInStoresTheByte : Prop :=
  ∀ (s : State) (b : Byte), s.phase = .enc →
    (s.cnt = 0#2 → exec (.encIn b) s = .next { s with buf := { s.buf with b0 := some b }, cnt := 1#2 }) ∧
    (s.cnt = 1#2 → exec (.encIn b) s = .next { s with buf := { s.buf with b1 := some b }, cnt := 2#2 })

/-- R143, R144, R147 and R149: the third byte of a chunk emits the four characters of the block, with offsets `fmod64(K + i*INC)`
at positions 0 to 3, and a newline where the block fills the line; the key has advanced four times. COL is a multiple of 4
below 76, as `Inv` says (R155). -/
def Obligations.EncInCompletesTheBlock : Prop :=
  ∀ (s : State) (x y z : Byte), s.phase = .enc → s.cnt = 2#2 → s.buf.b0 = some x → s.buf.b1 = some y →
    4 ∣ s.col.toNat → s.col.toNat ≤ 72 →
    exec (.encIn z) s = .next
      { s with
        k := keyAfterBlock s.k.toNat s.inc.toNat
        buf := { b0 := none, b1 := none, b2 := none }, cnt := 0#2
        col := if s.col = 72#7 then 0#7 else s.col + 4#7
        outq := s.outq ++ blockChars s.k.toNat s.inc.toNat 0 3 { b0 := x, b1 := y, b2 := z } ++
          (if s.col = 72#7 then [newline] else []) }

/-- R150: EOS with an empty chunk closes a partly filled line with one newline, emits nothing on an empty line, and ends the
session. -/
def Obligations.EncEosClosesTheLine : Prop :=
  ∀ s : State, s.phase = .enc → s.cnt = 0#2 →
    exec .encEos s = .next
      { s with
        phase := .idle, done := true, col := 0#7
        outq := s.outq ++ (if s.col = 0#7 then [] else [newline]) }

/-- R145, R148, R150 and R153: EOS with one or two bytes waiting emits the short block with its markers, then exactly one
newline, whichever of R149 and R150 emits it; the key has advanced four times. COL is a multiple of 4 below 76, as `Inv` says
(R155). -/
def Obligations.EncEosEmitsTheShortBlock : Prop :=
  ∀ s : State, s.phase = .enc → 4 ∣ s.col.toNat → s.col.toNat ≤ 72 →
    (∀ x : Byte, s.cnt = 1#2 → s.buf.b0 = some x →
      exec .encEos s = .next
        { s with
          phase := .idle, done := true, k := keyAfterBlock s.k.toNat s.inc.toNat
          buf := { b0 := none, b1 := none, b2 := none }, cnt := 0#2, col := 0#7
          outq := s.outq ++ blockChars s.k.toNat s.inc.toNat 0 1 { b0 := x, b1 := 0x00#8, b2 := 0x00#8 } ++ [newline] }) ∧
    (∀ x y : Byte, s.cnt = 2#2 → s.buf.b0 = some x → s.buf.b1 = some y →
      exec .encEos s = .next
        { s with
          phase := .idle, done := true, k := keyAfterBlock s.k.toNat s.inc.toNat
          buf := { b0 := none, b1 := none, b2 := none }, cnt := 0#2, col := 0#7
          outq := s.outq ++ blockChars s.k.toNat s.inc.toNat 0 2 { b0 := x, b1 := y, b2 := 0x00#8 } ++ [newline] })

/-! ### The decoder -/

/-- R103 and R173: a byte of `WS_SET` in phase DEC is accepted and changes nothing, whether the table has a row for it or not; and
each of the rows DEC.WS.HT, DEC.WS.LF, DEC.WS.VT, DEC.WS.FF, DEC.WS.CR and DEC.WS.SP answers the same state, in any state. That
it does so outside phase DEC, and where WS_SET lacks the row's byte, is the model's choice (assumption 12). -/
def Obligations.WhitespaceIsIgnored : Prop :=
  (∀ (s : State) (c : Byte), s.phase = .dec → c ∈ s.wsSet →
    accepts s (.word (dataBeat c)) = true ∧ runWord (dataBeat c) s = .next s) ∧
  (∀ (i : Instr) (c : Byte) (s : State), i.char? = some (c, .ws) → exec i s = .next s)

/-- R174: a significant character (each row DEC.SYM.0 to DEC.SYM.63, DEC.PAD, DEC.INV) that is not the fourth of its block is
stored as it is in QUAD[NCH], NCH counts it, and PAD counts it if it is `=`; nothing else happens. That exec of an ill-formed row,
such as DEC.INV of a byte of WS_SET (which R172 never stores) or of an alphabet character, takes the row's byte as it stands is the
model's choice (assumption 12); the decoder never answers such a row. -/
def Obligations.SignificantCharacterIsStored : Prop :=
  ∀ (i : Instr) (c : Byte) (k : CharClass) (s : State), i.char? = some (c, k) → k ≠ .ws → s.phase = .dec →
    (s.nch = 0#2 → exec i s = .next
      { s with quad := { s.quad with c0 := some c }, nch := 1#2, pad := if c = padChar then s.pad + 1#3 else s.pad }) ∧
    (s.nch = 1#2 → exec i s = .next
      { s with quad := { s.quad with c1 := some c }, nch := 2#2, pad := if c = padChar then s.pad + 1#3 else s.pad }) ∧
    (s.nch = 2#2 → exec i s = .next
      { s with quad := { s.quad with c2 := some c }, nch := 3#2, pad := if c = padChar then s.pad + 1#3 else s.pad })

/-- R176 to R182: the fourth character (of each row DEC.SYM.0 to DEC.SYM.63, DEC.PAD, DEC.INV) completes a block; where every
character of it is in the alphabet or is `=` and at most two are `=`, the block emits the leading `3 - PAD` bytes of its
unpacked sextets, the offsets being `fmod64(K + i*INC)`, and the key has advanced four times. PAD counts the markers before,
as `Inv` says (R28). That exec of an ill-formed row, such as DEC.INV of an alphabet character, takes the row's byte as it stands is
the model's choice (assumption 12). -/
def Obligations.GoodBlockIsDecoded : Prop :=
  ∀ (i : Instr) (k : CharClass) (s : State) (x y z c : Byte), i.char? = some (c, k) → k ≠ .ws → s.phase = .dec →
    s.nch = 3#2 → s.quad.c0 = some x → s.quad.c1 = some y → s.quad.c2 = some z →
    s.pad.toNat = [x, y, z].count padChar →
    (∀ d ∈ [x, y, z, c], d ∉ s.wsSet ∧ (d = padChar ∨ (symIndex d).isSome = true)) →
    markerCount { c0 := x, c1 := y, c2 := z, c3 := c } ≤ 2 →
    exec i s = .next
      { s with
        k := keyAfterBlock s.k.toNat s.inc.toNat
        quad := { c0 := none, c1 := none, c2 := none, c3 := none }, nch := 0#2, pad := 0#3
        outq := s.outq ++
          (blockBytes s.k.toNat s.inc.toNat 0
            { s0 := significantValue x, s1 := significantValue y, s2 := significantValue z, s3 := significantValue c }).take
            (3 - markerCount { c0 := x, c1 := y, c2 := z, c3 := c }) }

/-- R177, R192, R242, R247 and R250: the fourth character completes a block with an invalid character: the block faults with
E_CHAR and the first invalid character, emits nothing and takes no offset, whatever its markers. R192 and R248 say that the block
takes no offset; that K can be read after the fault, as `t.k = s.k` does, is the model's choice (assumption 5), for R247 leaves K
without a specified value there. That exec of an ill-formed row, such as DEC.INV of a byte of WS_SET (which R173 ignores) as the
fourth character, takes the row's byte as it stands and completes the block is the model's choice (assumption 12); the decoder never
answers such a row. -/
def Obligations.InvalidCharacterFaults : Prop :=
  ∀ (i : Instr) (k : CharClass) (s : State) (x y z c d : Byte), i.char? = some (c, k) → k ≠ .ws → s.phase = .dec →
    s.nch = 3#2 → s.quad.c0 = some x → s.quad.c1 = some y → s.quad.c2 = some z →
    (∃ pre post, [x, y, z, c] = pre ++ d :: post ∧ classify s.wsSet d = .inv ∧
      ∀ e ∈ pre, classify s.wsSet e ≠ .inv) →
    ∃ t, exec i s = .next t ∧ t.phase = .fault ∧ t.err = .eChar ∧ t.errInfo = d ∧ t.done = s.done ∧ t.outq = s.outq ∧
      t.k = s.k ∧ t.wsSet = s.wsSet ∧ t.offers = s.offers ∧ t.taken = s.taken ∧ t.resetLine = s.resetLine

/-- R178, R243 and R247: the fourth character completes a block without an invalid character and with three or four markers: the
block faults with E_PAD and the number of markers, emits nothing and takes no offset (R192, R248). PAD counts the markers before,
as `Inv` says (R28). That K can be read after the fault, as `t.k = s.k` does, is the model's choice (assumption 5), for R247 leaves
K without a specified value there. That exec of an ill-formed row, such as DEC.INV of an alphabet character, takes the row's byte as
it stands is the model's choice (assumption 12). -/
def Obligations.TooManyMarkersFault : Prop :=
  ∀ (i : Instr) (k : CharClass) (s : State) (x y z c : Byte), i.char? = some (c, k) → k ≠ .ws → s.phase = .dec →
    s.nch = 3#2 → s.quad.c0 = some x → s.quad.c1 = some y → s.quad.c2 = some z →
    s.pad.toNat = [x, y, z].count padChar →
    (∀ d ∈ [x, y, z, c], d ∉ s.wsSet ∧ (d = padChar ∨ (symIndex d).isSome = true)) →
    3 ≤ markerCount { c0 := x, c1 := y, c2 := z, c3 := c } →
    ∃ t, exec i s = .next t ∧ t.phase = .fault ∧ t.err = .ePad ∧
      t.errInfo.toNat = markerCount { c0 := x, c1 := y, c2 := z, c3 := c } ∧ t.done = s.done ∧ t.outq = s.outq ∧
      t.k = s.k ∧ t.wsSet = s.wsSet ∧ t.offers = s.offers ∧ t.taken = s.taken ∧ t.resetLine = s.resetLine

/-- R186: EOS in phase DEC on a block boundary ends the session; inside a block it faults with E_LEN and NCH, without looking at
the characters, DONE and OUTQ as before (of the other registers R247 gives no value after a fault, and nothing is said); any beat
with bit 8 set is this event. That exec answers the same state in every other phase is the model's choice (assumption 12): R218
holds the event there and gives no transition. -/
def Obligations.DecEosEndsOrFaults : Prop :=
  (∀ s : State, s.phase = .dec → s.nch = 0#2 → exec .decEos s = .next { s with phase := .idle, done := true }) ∧
  (∀ s : State, s.phase = .dec → s.nch ≠ 0#2 →
    ∃ t, exec .decEos s = .next t ∧ t.phase = .fault ∧ t.err = .eLen ∧ t.errInfo.toNat = s.nch.toNat ∧ t.done = s.done ∧
      t.outq = s.outq ∧ t.wsSet = s.wsSet ∧ t.offers = s.offers ∧ t.taken = s.taken ∧ t.resetLine = s.resetLine) ∧
  (∀ s : State, s.phase ≠ .dec → exec .decEos s = .next s) ∧
  (∀ (ws : WsSet) (b : BeatWord), beatEos b = true → decode ws .dec (.beat b) = .instr .decEos)

/-! ### The step -/

/-- A step accepts the earliest offered event that the present phase accepts and, where that event is a word that decodes to
`i`, runs `i` on the state without the event; the events before it are held (R10, R218). That the offered events stand in one list
in the order of offering is the model's choice (assumption 4). -/
def Obligations.StepRunsTheDecodedInstruction : Prop :=
  ∀ (s : State) (pre post : List Offer) (w : PortWord) (i : Instr), s.resetLine = false →
    s.offers = pre ++ .word w :: post → (∀ o ∈ pre, accepts s o = false) → decode s.wsSet s.phase w = .instr i →
    step s = exec i { s with offers := pre ++ post }

/-- R218: the acceptance table, and what it means for a step: with no offered event acceptable nothing changes, and otherwise the
earliest acceptable one takes effect and the others stay offered. The order among the offered events is the model's choice
(assumption 4). -/
def Obligations.HeldEventsStayOffered : Prop :=
  (∀ s : State, accepts s .reset = true ∧ (accepts s .out = true ↔ s.outq ≠ []) ∧
    (∀ w : CmdWord, accepts s (.word (.cmd w)) = true ↔ s.phase = .idle) ∧
    (∀ w : BeatWord, accepts s (.word (.beat w)) = true ↔ s.phase = .enc ∨ s.phase = .dec)) ∧
  (∀ s : State, s.resetLine = false → (∀ o ∈ s.offers, accepts s o = false) → step s = .next s) ∧
  (∀ (s : State) (pre post : List Offer) (o : Offer), s.resetLine = false → s.offers = pre ++ o :: post →
    (∀ p ∈ pre, accepts s p = false) → accepts s o = true → step s = runOffer o { s with offers := pre ++ post })

/-- R255 and R280: RESET asserted on its line wins over every offered event: none of them is accepted in that step, and the core
is in its reset state, with every output byte lost that the host has not taken (R282). That the same step lowers the line is the
model's choice (assumption 4). -/
def Obligations.ResetWinsOverEveryEvent : Prop :=
  ∀ s : State, s.resetLine = true → ∃ t, step s = .next t ∧
    t.phase = .idle ∧ t.done = false ∧ t.err = .none ∧ t.errInfo = 0#8 ∧ t.outq = [] ∧
    t.buf = ChunkBuf.empty ∧ t.quad = QuadBuf.empty ∧
    t.wsSet = s.wsSet ∧ t.offers = s.offers ∧ t.taken = s.taken ∧ t.resetLine = false

/-- R280: RESET as an offered event is accepted in every phase, before every event offered after it and before every held one (the
order of offering is the model's, assumption 4). -/
def Obligations.ResetIsAcceptedInEveryPhase : Prop :=
  ∀ (s : State) (pre post : List Offer), s.resetLine = false → s.offers = pre ++ .reset :: post →
    (∀ o ∈ pre, accepts s o = false) → ∃ t, step s = .next t ∧
      t.phase = .idle ∧ t.done = false ∧ t.err = .none ∧ t.errInfo = 0#8 ∧ t.outq = [] ∧ statusWord t = 0#13 ∧
      t.buf = ChunkBuf.empty ∧ t.quad = QuadBuf.empty ∧
      t.wsSet = s.wsSet ∧ t.offers = pre ++ post ∧ t.taken = s.taken

/-- R65: OUT takes the byte at the head of OUTQ, in any phase, and changes nothing else; with OUTQ empty it is not accepted.
That an OUT behind held events is taken before the acceptable events offered after it, and that the others stay offered in their
order, is the model's choice (assumption 4). -/
def Obligations.OutTakesTheHead : Prop :=
  (∀ (s : State) (pre post : List Offer) (b : Byte) (q : List Byte), s.resetLine = false →
    s.offers = pre ++ .out :: post → (∀ o ∈ pre, accepts s o = false) → s.outq = b :: q →
    outBeat s = some b ∧ step s = .next { s with outq := q, taken := s.taken ++ [b], offers := pre ++ post }) ∧
  (∀ s : State, s.outq = [] → accepts s .out = false)

/-- R255: OUT commutes with every word event: taking a byte before the event or after it gives the same state. A word that the
phase does not accept answers the same state, which is the model's choice (assumption 12). Where the word faults, that the two
states agree also in the registers to which R247 gives no value is the model's choice (assumption 5). -/
def Obligations.OutCommutesWithEveryWord : Prop :=
  ∀ (s t : State) (w : PortWord), s.outq ≠ [] → runWord w s = .next t → runWord w (takeOut s) = .next (takeOut t)

/-! ### Status and reset -/

/-- R36: the fields of the STATUS word. -/
def Obligations.StatusWordFields : Prop :=
  ∀ s : State,
    ((statusWord s).extractLsb' 0 2).toNat = (match s.phase with | .idle => 0 | .enc => 1 | .dec => 2 | .fault => 3) ∧
    (statusWord s).getLsbD 2 = s.done ∧
    ((statusWord s).extractLsb' 3 2).toNat = (match s.err with | .none => 0 | .eLen => 1 | .eChar => 2 | .ePad => 3) ∧
    (statusWord s).extractLsb' 5 8 = s.errInfo

/-- R41 and R281, for the registers whose reset state the spec states. -/
def Obligations.ResetStateIsAsStated : Prop :=
  State.reset.phase = .idle ∧ State.reset.done = false ∧ State.reset.err = .none ∧ State.reset.errInfo = 0#8 ∧
  State.reset.outq = [] ∧ State.reset.buf = { b0 := none, b1 := none, b2 := none } ∧
  State.reset.quad = { c0 := none, c1 := none, c2 := none, c3 := none } ∧ statusWord State.reset = 0#13

/-! ### Invariants and safety -/

/-- The invariant holds after RESET. -/
def Obligations.InvariantHoldsAtReset : Prop := Inv State.reset

/-- Every step keeps the invariant: the ranges of the counters, COL a multiple of 4 (R155), K at most 126 (R126), the slots of BUF
and QUAD that hold values, PAD the number of markers (R28), and the legal STATUS combinations (R36, R40). -/
def Obligations.StepKeepsTheInvariant : Prop :=
  ∀ s t : State, Inv s → step s = .next t → Inv t

/-- From a state with the invariant no run ends in a fault or a refusal of the model: no rule reads a register that holds no value
(R44), and the block accepts events for ever (R225, R226). -/
def Obligations.RunsNeverStop : Prop :=
  ∀ s : State, Inv s → SafeFrom s

/-- R78: no step changes `WS_SET`, from any state. -/
def Obligations.StepKeepsTheWhitespaceSet : Prop :=
  ∀ s t : State, step s = .next t → t.wsSet = s.wsSet

/-- R252 and R253: in phase FAULT no command and no input beat is accepted, every step keeps PHASE, ERR and ERRINFO unless it is a
RESET, and a RESET clears them and empties OUTQ. -/
def Obligations.FaultIsLeftOnlyByReset : Prop :=
  ∀ s t : State, s.phase = .fault → step s = .next t →
    (∀ w : PortWord, accepts s (.word w) = false) ∧
    ((t.phase = .fault ∧ t.err = s.err ∧ t.errInfo = s.errInfo) ∨
     ((s.resetLine = true ∨ .reset ∈ s.offers) ∧ t.phase = .idle ∧ t.err = .none ∧ t.errInfo = 0#8 ∧ t.outq = []))

/-- R213, R214 and R245: the only changes of PHASE. A step that is no RESET keeps it, or starts a session from IDLE with DONE
cleared, or ends one with DONE set, or faults from DEC with a code. -/
def Obligations.PhaseTransitionsAreThoseListed : Prop :=
  ∀ s t : State, step s = .next t → s.resetLine = false → (∀ rest, nextOffer s ≠ some (.reset, rest)) →
    t.phase = s.phase ∨
    (s.phase = .idle ∧ (t.phase = .enc ∨ t.phase = .dec) ∧ t.done = false) ∨
    ((s.phase = .enc ∨ s.phase = .dec) ∧ t.phase = .idle ∧ t.done = true) ∨
    (s.phase = .dec ∧ t.phase = .fault ∧ t.err ≠ .none)

/-- R63, R64, R65 and R79: output is append-only. The bytes taken and the bytes waiting, in order, only grow at the end; RESET loses
the waiting ones and no taken one. -/
def Obligations.OutputIsAppendOnly : Prop :=
  ∀ s t : State, step s = .next t →
    (∃ e, t.taken ++ t.outq = s.taken ++ s.outq ++ e) ∨
    ((s.resetLine = true ∨ .reset ∈ s.offers) ∧ t.taken = s.taken ∧ t.outq = [])

/-- R40: in phase ENC no rule reads QUAD, NCH or PAD, and none writes them: the two instructions of the phase do the same whatever
those three hold. Where the core is in another phase exec answers the same state, which is the model's choice (assumption 12). -/
def Obligations.EncoderIgnoresDecoderRegisters : Prop :=
  ∀ (s t : State) (i : Instr) (q : QuadBuf) (n : BitVec 2) (p : BitVec 3), i.phase = .enc → exec i s = .next t →
    t.quad = s.quad ∧ t.nch = s.nch ∧ t.pad = s.pad ∧
    exec i { s with quad := q, nch := n, pad := p } = .next { t with quad := q, nch := n, pad := p }

/-- R40: in phase DEC no rule reads BUF, CNT or COL, and none writes them. Where a row faults, that BUF, CNT and COL can be read in
phase FAULT and hold what they held is the model's choice (assumption 5), for R247 leaves them without a specified value there.
Where the core is in another phase exec answers the same state, and exec of an ill-formed row takes the row's byte as it stands,
which are the model's choices (assumption 12). -/
def Obligations.DecoderIgnoresEncoderRegisters : Prop :=
  ∀ (s t : State) (i : Instr) (b : ChunkBuf) (n : BitVec 2) (c : BitVec 7), i.phase = .dec → exec i s = .next t →
    t.buf = s.buf ∧ t.cnt = s.cnt ∧ t.col = s.col ∧
    exec i { s with buf := b, cnt := n, col := c } = .next { t with buf := b, cnt := n, col := c }

/-! ### Whole sessions -/

/-- R156: the session `ENC kb, ki; IN S[0]; ...; IN S[n-1]; EOS` appends exactly `Encode(S, kb, ki)` to OUTQ, from every state that
can start a session, and ends normally (R141). -/
def Obligations.EncodeSessionIsTheFunction : Prop :=
  ∀ (s : State) (S : List Byte) (kb ki : Sextet), ReadyFor s (sessionOffers (cmdWord true kb ki) S) →
    ∃ t, EncodeRun s S kb ki t ∧ t.outq = s.outq ++ encodeFunction S kb ki ∧ EndsAs t .done ∧ t.offers = [] ∧
      t.taken = s.taken ∧ t.wsSet = s.wsSet

/-- R190: the session `DEC kb, ki; IN T[0]; ...; EOS` appends exactly the output of `Decode(T, kb, ki)` to OUTQ and ends as it says,
from every state that can start a session and under every `WS_SET`. -/
def Obligations.DecodeSessionIsTheFunction : Prop :=
  ∀ (s : State) (T : List Byte) (kb ki : Sextet), ReadyFor s (sessionOffers (cmdWord false kb ki) T) →
    ∃ t, DecodeRun s T kb ki t ∧ t.outq = s.outq ++ (decodeFunction s.wsSet T kb ki).1 ∧
      EndsAs t (decodeFunction s.wsSet T kb ki).2 ∧ t.taken = s.taken ∧ t.wsSet = s.wsSet

/-- R191, first part: decoding what an encode session emitted, under the same keys and any legal `WS_SET`, gives the input back and
ends normally, for every input and all keys. -/
def Obligations.RoundTrip : Prop :=
  ∀ (s t s' t' : State) (S out : List Byte) (kb ki : Sextet), EncodeRun s S kb ki t → t.outq = s.outq ++ out →
    Config.wsLegal s'.wsSet = true → DecodeRun s' out kb ki t' → t'.outq = s'.outq ++ S ∧ EndsAs t' .done

/-- R191, second part: under other keys the decoder does not fault; it ends normally with as many bytes. -/
def Obligations.WrongKeysEndNormally : Prop :=
  ∀ (s t s' t' : State) (S out : List Byte) (kb ki kb' ki' : Sextet), EncodeRun s S kb ki t → t.outq = s.outq ++ out →
    Config.wsLegal s'.wsSet = true → DecodeRun s' out kb' ki' t' →
    EndsAs t' .done ∧ ∃ S', t'.outq = s'.outq ++ S' ∧ S'.length = S.length

/-- R189: two inputs that differ only by bytes of `WS_SET` give the same `Decode`, and two decode sessions with them emit the same
bytes and end with the same status and detail. -/
def Obligations.WhitespaceTolerance : Prop :=
  ∀ (s t s' t' : State) (T T' out out' : List Byte) (kb ki : Sextet), s.wsSet = s'.wsSet →
    T.filter (fun c => c ∉ s.wsSet) = T'.filter (fun c => c ∉ s.wsSet) →
    DecodeRun s T kb ki t → DecodeRun s' T' kb ki t' → t.outq = s.outq ++ out → t'.outq = s'.outq ++ out' →
    decodeFunction s.wsSet T kb ki = decodeFunction s.wsSet T' kb ki ∧ out = out' ∧ statusWord t = statusWord t'

/-- R154: the output of an encode session is a list of lines, each ended by a newline; all but the last have 76 characters and there
are `ceil(N/76)` of them, `N = 4 * ceil(n/3)` being the number of characters (R109). -/
def Obligations.LineWrapping : Prop :=
  ∀ (s t : State) (S out : List Byte) (kb ki : Sextet), EncodeRun s S kb ki t → t.outq = s.outq ++ out →
    ∃ lines : List (List Byte), out = lines.flatMap (fun l => l ++ [newline]) ∧
      lines.flatten.length = 4 * ((S.length + 2) / 3) ∧
      lines.length = (lines.flatten.length + 75) / 76 ∧
      (∀ l ∈ lines, newline ∉ l ∧ 1 ≤ l.length ∧ l.length ≤ 76) ∧
      (∀ l ∈ lines.dropLast, l.length = 76)

/-- R151: the output of an encode session ends with exactly one newline whenever it is not empty, is empty exactly when the input is,
and has no empty line. -/
def Obligations.FinalNewline : Prop :=
  ∀ (s t : State) (S out : List Byte) (kb ki : Sextet), EncodeRun s S kb ki t → t.outq = s.outq ++ out →
    (out = [] ↔ S = []) ∧
    (out ≠ [] → ∃ p c, out = p ++ [c, newline] ∧ c ≠ newline) ∧
    (∀ p q, out ≠ p ++ [newline, newline] ++ q) ∧ (∀ q, out ≠ newline :: q)

/-- R157: the bytes an encode session emits are alphabet characters, `=` and newlines; it emits two `=` for `n mod 3 = 1`, one for
`n mod 3 = 2` and none otherwise, and they are the last characters before the final newline; one or two bytes give one block. -/
def Obligations.AlphabetClosureAndPadding : Prop :=
  ∀ (s t : State) (S out : List Byte) (kb ki : Sextet), EncodeRun s S kb ki t → t.outq = s.outq ++ out →
    (∀ c ∈ out, (∃ v, c = alpha v) ∨ c = padChar ∨ c = newline) ∧
    (S.length % 3 = 1 → out.count padChar = 2 ∧ ∃ p, out = p ++ [padChar, padChar, newline]) ∧
    (S.length % 3 = 2 → out.count padChar = 1 ∧ ∃ p, out = p ++ [padChar, newline]) ∧
    (S.length % 3 = 0 → out.count padChar = 0) ∧
    (S.length = 1 ∨ S.length = 2 → out.length = 5)

/-- R158: with different keys the outputs of two encode sessions of one input that is not empty differ in their first two characters;
for the empty input both are empty; and each output decodes under its own keys, as `RoundTrip` says. -/
def Obligations.KeyEffect : Prop :=
  ∀ (s t s' t' : State) (S out out' : List Byte) (kb ki kb' ki' : Sextet),
    EncodeRun s S kb ki t → EncodeRun s' S kb' ki' t' → t.outq = s.outq ++ out → t'.outq = s'.outq ++ out' →
    (S ≠ [] → (kb, ki) ≠ (kb', ki') → out.take 2 ≠ out'.take 2) ∧ (S = [] → out = [] ∧ out' = []) ∧
    (∀ d e : State, Config.wsLegal d.wsSet = true → DecodeRun d out kb ki e → e.outq = d.outq ++ S) ∧
    (∀ d e : State, Config.wsLegal d.wsSet = true → DecodeRun d out' kb' ki' e → e.outq = d.outq ++ S)

/-- R152: the session `ENC kb, ki` followed at once by EOS emits nothing, leaves K = kb, and ends with DONE = 1. -/
def Obligations.EmptyInputEmitsNothing : Prop :=
  ∀ (s : State) (kb ki : Sextet), ReadyFor s (sessionOffers (cmdWord true kb ki) []) →
    ∃ t, EncodeRun s [] kb ki t ∧ t.outq = s.outq ∧ t.k.toNat = kb.toNat ∧ t.done = true ∧ t.phase = .idle

/-- R43 and R224: what a session emits and the status it ends with depend on its command, its input and `WS_SET` only, not on what the
core did before. -/
def Obligations.SessionsAreIndependent : Prop :=
  (∀ (s t s' t' : State) (S out out' : List Byte) (kb ki : Sextet), EncodeRun s S kb ki t → EncodeRun s' S kb ki t' →
    t.outq = s.outq ++ out → t'.outq = s'.outq ++ out' → out = out' ∧ statusWord t = statusWord t') ∧
  (∀ (s t s' t' : State) (T out out' : List Byte) (kb ki : Sextet), s.wsSet = s'.wsSet → DecodeRun s T kb ki t →
    DecodeRun s' T kb ki t' → t.outq = s.outq ++ out → t'.outq = s'.outq ++ out' →
    out = out' ∧ statusWord t = statusWord t')
end

