-- ==== Sys2Proof/Laws/State.lean ====
section
/-! SUPPORT. One lemma per field per named update of the state, so that no proof unfolds a record update. -/

namespace Sys2Proof.Machine

@[simp] theorem emit_phase (b : Byte) (s : State) : (emit b s).phase = s.phase := rfl
@[simp] theorem emit_done (b : Byte) (s : State) : (emit b s).done = s.done := rfl
@[simp] theorem emit_err (b : Byte) (s : State) : (emit b s).err = s.err := rfl
@[simp] theorem emit_errInfo (b : Byte) (s : State) : (emit b s).errInfo = s.errInfo := rfl
@[simp] theorem emit_k (b : Byte) (s : State) : (emit b s).k = s.k := rfl
@[simp] theorem emit_inc (b : Byte) (s : State) : (emit b s).inc = s.inc := rfl
@[simp] theorem emit_buf (b : Byte) (s : State) : (emit b s).buf = s.buf := rfl
@[simp] theorem emit_cnt (b : Byte) (s : State) : (emit b s).cnt = s.cnt := rfl
@[simp] theorem emit_col (b : Byte) (s : State) : (emit b s).col = s.col := rfl
@[simp] theorem emit_quad (b : Byte) (s : State) : (emit b s).quad = s.quad := rfl
@[simp] theorem emit_nch (b : Byte) (s : State) : (emit b s).nch = s.nch := rfl
@[simp] theorem emit_pad (b : Byte) (s : State) : (emit b s).pad = s.pad := rfl
@[simp] theorem emit_outq (b : Byte) (s : State) : (emit b s).outq = s.outq ++ [b] := rfl
@[simp] theorem emit_wsSet (b : Byte) (s : State) : (emit b s).wsSet = s.wsSet := rfl
@[simp] theorem emit_resetLine (b : Byte) (s : State) : (emit b s).resetLine = s.resetLine := rfl
@[simp] theorem emit_offers (b : Byte) (s : State) : (emit b s).offers = s.offers := rfl
@[simp] theorem emit_taken (b : Byte) (s : State) : (emit b s).taken = s.taken := rfl

@[simp] theorem ksAdvance_phase (s : State) : (ksAdvance s).phase = s.phase := rfl
@[simp] theorem ksAdvance_done (s : State) : (ksAdvance s).done = s.done := rfl
@[simp] theorem ksAdvance_err (s : State) : (ksAdvance s).err = s.err := rfl
@[simp] theorem ksAdvance_errInfo (s : State) : (ksAdvance s).errInfo = s.errInfo := rfl
@[simp] theorem ksAdvance_k (s : State) : (ksAdvance s).k = (ksOffset s).setWidth 7 + s.inc.setWidth 7 := rfl
@[simp] theorem ksAdvance_inc (s : State) : (ksAdvance s).inc = s.inc := rfl
@[simp] theorem ksAdvance_buf (s : State) : (ksAdvance s).buf = s.buf := rfl
@[simp] theorem ksAdvance_cnt (s : State) : (ksAdvance s).cnt = s.cnt := rfl
@[simp] theorem ksAdvance_col (s : State) : (ksAdvance s).col = s.col := rfl
@[simp] theorem ksAdvance_quad (s : State) : (ksAdvance s).quad = s.quad := rfl
@[simp] theorem ksAdvance_nch (s : State) : (ksAdvance s).nch = s.nch := rfl
@[simp] theorem ksAdvance_pad (s : State) : (ksAdvance s).pad = s.pad := rfl
@[simp] theorem ksAdvance_outq (s : State) : (ksAdvance s).outq = s.outq := rfl
@[simp] theorem ksAdvance_wsSet (s : State) : (ksAdvance s).wsSet = s.wsSet := rfl
@[simp] theorem ksAdvance_resetLine (s : State) : (ksAdvance s).resetLine = s.resetLine := rfl
@[simp] theorem ksAdvance_offers (s : State) : (ksAdvance s).offers = s.offers := rfl
@[simp] theorem ksAdvance_taken (s : State) : (ksAdvance s).taken = s.taken := rfl

@[simp] theorem raiseFault_phase (code : ErrCode) (info : Byte) (s : State) : (raiseFault code info s).phase = .fault := rfl
@[simp] theorem raiseFault_done (code : ErrCode) (info : Byte) (s : State) : (raiseFault code info s).done = s.done := rfl
@[simp] theorem raiseFault_err (code : ErrCode) (info : Byte) (s : State) : (raiseFault code info s).err = code := rfl
@[simp] theorem raiseFault_errInfo (code : ErrCode) (info : Byte) (s : State) : (raiseFault code info s).errInfo = info := rfl
@[simp] theorem raiseFault_k (code : ErrCode) (info : Byte) (s : State) : (raiseFault code info s).k = s.k := rfl
@[simp] theorem raiseFault_inc (code : ErrCode) (info : Byte) (s : State) : (raiseFault code info s).inc = s.inc := rfl
@[simp] theorem raiseFault_buf (code : ErrCode) (info : Byte) (s : State) : (raiseFault code info s).buf = s.buf := rfl
@[simp] theorem raiseFault_cnt (code : ErrCode) (info : Byte) (s : State) : (raiseFault code info s).cnt = s.cnt := rfl
@[simp] theorem raiseFault_col (code : ErrCode) (info : Byte) (s : State) : (raiseFault code info s).col = s.col := rfl
@[simp] theorem raiseFault_quad (code : ErrCode) (info : Byte) (s : State) : (raiseFault code info s).quad = s.quad := rfl
@[simp] theorem raiseFault_nch (code : ErrCode) (info : Byte) (s : State) : (raiseFault code info s).nch = s.nch := rfl
@[simp] theorem raiseFault_pad (code : ErrCode) (info : Byte) (s : State) : (raiseFault code info s).pad = s.pad := rfl
@[simp] theorem raiseFault_outq (code : ErrCode) (info : Byte) (s : State) : (raiseFault code info s).outq = s.outq := rfl
@[simp] theorem raiseFault_wsSet (code : ErrCode) (info : Byte) (s : State) : (raiseFault code info s).wsSet = s.wsSet := rfl
@[simp] theorem raiseFault_resetLine (code : ErrCode) (info : Byte) (s : State) : (raiseFault code info s).resetLine = s.resetLine := rfl
@[simp] theorem raiseFault_offers (code : ErrCode) (info : Byte) (s : State) : (raiseFault code info s).offers = s.offers := rfl
@[simp] theorem raiseFault_taken (code : ErrCode) (info : Byte) (s : State) : (raiseFault code info s).taken = s.taken := rfl

@[simp] theorem endSession_phase (s : State) : (endSession s).phase = .idle := rfl
@[simp] theorem endSession_done (s : State) : (endSession s).done = true := rfl
@[simp] theorem endSession_err (s : State) : (endSession s).err = s.err := rfl
@[simp] theorem endSession_errInfo (s : State) : (endSession s).errInfo = s.errInfo := rfl
@[simp] theorem endSession_k (s : State) : (endSession s).k = s.k := rfl
@[simp] theorem endSession_inc (s : State) : (endSession s).inc = s.inc := rfl
@[simp] theorem endSession_buf (s : State) : (endSession s).buf = s.buf := rfl
@[simp] theorem endSession_cnt (s : State) : (endSession s).cnt = s.cnt := rfl
@[simp] theorem endSession_col (s : State) : (endSession s).col = s.col := rfl
@[simp] theorem endSession_quad (s : State) : (endSession s).quad = s.quad := rfl
@[simp] theorem endSession_nch (s : State) : (endSession s).nch = s.nch := rfl
@[simp] theorem endSession_pad (s : State) : (endSession s).pad = s.pad := rfl
@[simp] theorem endSession_outq (s : State) : (endSession s).outq = s.outq := rfl
@[simp] theorem endSession_wsSet (s : State) : (endSession s).wsSet = s.wsSet := rfl
@[simp] theorem endSession_resetLine (s : State) : (endSession s).resetLine = s.resetLine := rfl
@[simp] theorem endSession_offers (s : State) : (endSession s).offers = s.offers := rfl
@[simp] theorem endSession_taken (s : State) : (endSession s).taken = s.taken := rfl

@[simp] theorem sessionInit_phase (kb ki : Sextet) (s : State) : (sessionInit kb ki s).phase = s.phase := rfl
@[simp] theorem sessionInit_done (kb ki : Sextet) (s : State) : (sessionInit kb ki s).done = false := rfl
@[simp] theorem sessionInit_err (kb ki : Sextet) (s : State) : (sessionInit kb ki s).err = .none := rfl
@[simp] theorem sessionInit_errInfo (kb ki : Sextet) (s : State) : (sessionInit kb ki s).errInfo = 0#byteBits := rfl
@[simp] theorem sessionInit_k (kb ki : Sextet) (s : State) : (sessionInit kb ki s).k = kb.setWidth 7 := rfl
@[simp] theorem sessionInit_inc (kb ki : Sextet) (s : State) : (sessionInit kb ki s).inc = ki := rfl
@[simp] theorem sessionInit_buf (kb ki : Sextet) (s : State) : (sessionInit kb ki s).buf = ChunkBuf.empty := rfl
@[simp] theorem sessionInit_cnt (kb ki : Sextet) (s : State) : (sessionInit kb ki s).cnt = 0#2 := rfl
@[simp] theorem sessionInit_col (kb ki : Sextet) (s : State) : (sessionInit kb ki s).col = 0#7 := rfl
@[simp] theorem sessionInit_quad (kb ki : Sextet) (s : State) : (sessionInit kb ki s).quad = QuadBuf.empty := rfl
@[simp] theorem sessionInit_nch (kb ki : Sextet) (s : State) : (sessionInit kb ki s).nch = 0#2 := rfl
@[simp] theorem sessionInit_pad (kb ki : Sextet) (s : State) : (sessionInit kb ki s).pad = 0#3 := rfl
@[simp] theorem sessionInit_outq (kb ki : Sextet) (s : State) : (sessionInit kb ki s).outq = s.outq := rfl
@[simp] theorem sessionInit_wsSet (kb ki : Sextet) (s : State) : (sessionInit kb ki s).wsSet = s.wsSet := rfl
@[simp] theorem sessionInit_resetLine (kb ki : Sextet) (s : State) : (sessionInit kb ki s).resetLine = s.resetLine := rfl
@[simp] theorem sessionInit_offers (kb ki : Sextet) (s : State) : (sessionInit kb ki s).offers = s.offers := rfl
@[simp] theorem sessionInit_taken (kb ki : Sextet) (s : State) : (sessionInit kb ki s).taken = s.taken := rfl

@[simp] theorem resetCore_phase (s : State) : (resetCore s).phase = .idle := rfl
@[simp] theorem resetCore_done (s : State) : (resetCore s).done = false := rfl
@[simp] theorem resetCore_err (s : State) : (resetCore s).err = .none := rfl
@[simp] theorem resetCore_errInfo (s : State) : (resetCore s).errInfo = 0#byteBits := rfl
@[simp] theorem resetCore_k (s : State) : (resetCore s).k = 0#7 := rfl
@[simp] theorem resetCore_inc (s : State) : (resetCore s).inc = 0#symBits := rfl
@[simp] theorem resetCore_buf (s : State) : (resetCore s).buf = ChunkBuf.empty := rfl
@[simp] theorem resetCore_cnt (s : State) : (resetCore s).cnt = 0#2 := rfl
@[simp] theorem resetCore_col (s : State) : (resetCore s).col = 0#7 := rfl
@[simp] theorem resetCore_quad (s : State) : (resetCore s).quad = QuadBuf.empty := rfl
@[simp] theorem resetCore_nch (s : State) : (resetCore s).nch = 0#2 := rfl
@[simp] theorem resetCore_pad (s : State) : (resetCore s).pad = 0#3 := rfl
@[simp] theorem resetCore_outq (s : State) : (resetCore s).outq = [] := rfl
@[simp] theorem resetCore_wsSet (s : State) : (resetCore s).wsSet = s.wsSet := rfl
@[simp] theorem resetCore_resetLine (s : State) : (resetCore s).resetLine = s.resetLine := rfl
@[simp] theorem resetCore_offers (s : State) : (resetCore s).offers = s.offers := rfl
@[simp] theorem resetCore_taken (s : State) : (resetCore s).taken = s.taken := rfl

@[simp] theorem resetByLine_phase (s : State) : (resetByLine s).phase = .idle := rfl
@[simp] theorem resetByLine_done (s : State) : (resetByLine s).done = false := rfl
@[simp] theorem resetByLine_err (s : State) : (resetByLine s).err = .none := rfl
@[simp] theorem resetByLine_errInfo (s : State) : (resetByLine s).errInfo = 0#byteBits := rfl
@[simp] theorem resetByLine_k (s : State) : (resetByLine s).k = 0#7 := rfl
@[simp] theorem resetByLine_inc (s : State) : (resetByLine s).inc = 0#symBits := rfl
@[simp] theorem resetByLine_buf (s : State) : (resetByLine s).buf = ChunkBuf.empty := rfl
@[simp] theorem resetByLine_cnt (s : State) : (resetByLine s).cnt = 0#2 := rfl
@[simp] theorem resetByLine_col (s : State) : (resetByLine s).col = 0#7 := rfl
@[simp] theorem resetByLine_quad (s : State) : (resetByLine s).quad = QuadBuf.empty := rfl
@[simp] theorem resetByLine_nch (s : State) : (resetByLine s).nch = 0#2 := rfl
@[simp] theorem resetByLine_pad (s : State) : (resetByLine s).pad = 0#3 := rfl
@[simp] theorem resetByLine_outq (s : State) : (resetByLine s).outq = [] := rfl
@[simp] theorem resetByLine_wsSet (s : State) : (resetByLine s).wsSet = s.wsSet := rfl
@[simp] theorem resetByLine_resetLine (s : State) : (resetByLine s).resetLine = false := rfl
@[simp] theorem resetByLine_offers (s : State) : (resetByLine s).offers = s.offers := rfl
@[simp] theorem resetByLine_taken (s : State) : (resetByLine s).taken = s.taken := rfl

@[simp] theorem clearChunk_phase (s : State) : (clearChunk s).phase = s.phase := rfl
@[simp] theorem clearChunk_done (s : State) : (clearChunk s).done = s.done := rfl
@[simp] theorem clearChunk_err (s : State) : (clearChunk s).err = s.err := rfl
@[simp] theorem clearChunk_errInfo (s : State) : (clearChunk s).errInfo = s.errInfo := rfl
@[simp] theorem clearChunk_k (s : State) : (clearChunk s).k = s.k := rfl
@[simp] theorem clearChunk_inc (s : State) : (clearChunk s).inc = s.inc := rfl
@[simp] theorem clearChunk_buf (s : State) : (clearChunk s).buf = ChunkBuf.empty := rfl
@[simp] theorem clearChunk_cnt (s : State) : (clearChunk s).cnt = 0#2 := rfl
@[simp] theorem clearChunk_col (s : State) : (clearChunk s).col = s.col := rfl
@[simp] theorem clearChunk_quad (s : State) : (clearChunk s).quad = s.quad := rfl
@[simp] theorem clearChunk_nch (s : State) : (clearChunk s).nch = s.nch := rfl
@[simp] theorem clearChunk_pad (s : State) : (clearChunk s).pad = s.pad := rfl
@[simp] theorem clearChunk_outq (s : State) : (clearChunk s).outq = s.outq := rfl
@[simp] theorem clearChunk_wsSet (s : State) : (clearChunk s).wsSet = s.wsSet := rfl
@[simp] theorem clearChunk_resetLine (s : State) : (clearChunk s).resetLine = s.resetLine := rfl
@[simp] theorem clearChunk_offers (s : State) : (clearChunk s).offers = s.offers := rfl
@[simp] theorem clearChunk_taken (s : State) : (clearChunk s).taken = s.taken := rfl

@[simp] theorem clearQuad_phase (s : State) : (clearQuad s).phase = s.phase := rfl
@[simp] theorem clearQuad_done (s : State) : (clearQuad s).done = s.done := rfl
@[simp] theorem clearQuad_err (s : State) : (clearQuad s).err = s.err := rfl
@[simp] theorem clearQuad_errInfo (s : State) : (clearQuad s).errInfo = s.errInfo := rfl
@[simp] theorem clearQuad_k (s : State) : (clearQuad s).k = s.k := rfl
@[simp] theorem clearQuad_inc (s : State) : (clearQuad s).inc = s.inc := rfl
@[simp] theorem clearQuad_buf (s : State) : (clearQuad s).buf = s.buf := rfl
@[simp] theorem clearQuad_cnt (s : State) : (clearQuad s).cnt = s.cnt := rfl
@[simp] theorem clearQuad_col (s : State) : (clearQuad s).col = s.col := rfl
@[simp] theorem clearQuad_quad (s : State) : (clearQuad s).quad = QuadBuf.empty := rfl
@[simp] theorem clearQuad_nch (s : State) : (clearQuad s).nch = 0#2 := rfl
@[simp] theorem clearQuad_pad (s : State) : (clearQuad s).pad = 0#3 := rfl
@[simp] theorem clearQuad_outq (s : State) : (clearQuad s).outq = s.outq := rfl
@[simp] theorem clearQuad_wsSet (s : State) : (clearQuad s).wsSet = s.wsSet := rfl
@[simp] theorem clearQuad_resetLine (s : State) : (clearQuad s).resetLine = s.resetLine := rfl
@[simp] theorem clearQuad_offers (s : State) : (clearQuad s).offers = s.offers := rfl
@[simp] theorem clearQuad_taken (s : State) : (clearQuad s).taken = s.taken := rfl

@[simp] theorem collect_phase (c : Byte) (s : State) : (collect c s).phase = s.phase := rfl
@[simp] theorem collect_done (c : Byte) (s : State) : (collect c s).done = s.done := rfl
@[simp] theorem collect_err (c : Byte) (s : State) : (collect c s).err = s.err := rfl
@[simp] theorem collect_errInfo (c : Byte) (s : State) : (collect c s).errInfo = s.errInfo := rfl
@[simp] theorem collect_k (c : Byte) (s : State) : (collect c s).k = s.k := rfl
@[simp] theorem collect_inc (c : Byte) (s : State) : (collect c s).inc = s.inc := rfl
@[simp] theorem collect_buf (c : Byte) (s : State) : (collect c s).buf = s.buf := rfl
@[simp] theorem collect_cnt (c : Byte) (s : State) : (collect c s).cnt = s.cnt := rfl
@[simp] theorem collect_col (c : Byte) (s : State) : (collect c s).col = s.col := rfl
@[simp] theorem collect_quad (c : Byte) (s : State) : (collect c s).quad = s.quad.write s.nch c := rfl
@[simp] theorem collect_nch (c : Byte) (s : State) : (collect c s).nch = s.nch := rfl
@[simp] theorem collect_pad (c : Byte) (s : State) : (collect c s).pad = if c = padChar then s.pad + 1#3 else s.pad := rfl
@[simp] theorem collect_outq (c : Byte) (s : State) : (collect c s).outq = s.outq := rfl
@[simp] theorem collect_wsSet (c : Byte) (s : State) : (collect c s).wsSet = s.wsSet := rfl
@[simp] theorem collect_resetLine (c : Byte) (s : State) : (collect c s).resetLine = s.resetLine := rfl
@[simp] theorem collect_offers (c : Byte) (s : State) : (collect c s).offers = s.offers := rfl
@[simp] theorem collect_taken (c : Byte) (s : State) : (collect c s).taken = s.taken := rfl

@[simp] theorem placeWord_phase (ph : Phase) (w : PortWord) (s : State) : (placeWord ph w s).phase = ph := rfl
@[simp] theorem placeWord_done (ph : Phase) (w : PortWord) (s : State) : (placeWord ph w s).done = s.done := rfl
@[simp] theorem placeWord_err (ph : Phase) (w : PortWord) (s : State) : (placeWord ph w s).err = s.err := rfl
@[simp] theorem placeWord_errInfo (ph : Phase) (w : PortWord) (s : State) : (placeWord ph w s).errInfo = s.errInfo := rfl
@[simp] theorem placeWord_k (ph : Phase) (w : PortWord) (s : State) : (placeWord ph w s).k = s.k := rfl
@[simp] theorem placeWord_inc (ph : Phase) (w : PortWord) (s : State) : (placeWord ph w s).inc = s.inc := rfl
@[simp] theorem placeWord_buf (ph : Phase) (w : PortWord) (s : State) : (placeWord ph w s).buf = s.buf := rfl
@[simp] theorem placeWord_cnt (ph : Phase) (w : PortWord) (s : State) : (placeWord ph w s).cnt = s.cnt := rfl
@[simp] theorem placeWord_col (ph : Phase) (w : PortWord) (s : State) : (placeWord ph w s).col = s.col := rfl
@[simp] theorem placeWord_quad (ph : Phase) (w : PortWord) (s : State) : (placeWord ph w s).quad = s.quad := rfl
@[simp] theorem placeWord_nch (ph : Phase) (w : PortWord) (s : State) : (placeWord ph w s).nch = s.nch := rfl
@[simp] theorem placeWord_pad (ph : Phase) (w : PortWord) (s : State) : (placeWord ph w s).pad = s.pad := rfl
@[simp] theorem placeWord_outq (ph : Phase) (w : PortWord) (s : State) : (placeWord ph w s).outq = s.outq := rfl
@[simp] theorem placeWord_wsSet (ph : Phase) (w : PortWord) (s : State) : (placeWord ph w s).wsSet = s.wsSet := rfl
@[simp] theorem placeWord_resetLine (ph : Phase) (w : PortWord) (s : State) : (placeWord ph w s).resetLine = false := rfl
@[simp] theorem placeWord_offers (ph : Phase) (w : PortWord) (s : State) : (placeWord ph w s).offers = .word w :: s.offers := rfl
@[simp] theorem placeWord_taken (ph : Phase) (w : PortWord) (s : State) : (placeWord ph w s).taken = s.taken := rfl

@[simp] theorem takeOut_phase (s : State) : (takeOut s).phase = s.phase := by unfold takeOut; split <;> rfl
@[simp] theorem takeOut_done (s : State) : (takeOut s).done = s.done := by unfold takeOut; split <;> rfl
@[simp] theorem takeOut_err (s : State) : (takeOut s).err = s.err := by unfold takeOut; split <;> rfl
@[simp] theorem takeOut_errInfo (s : State) : (takeOut s).errInfo = s.errInfo := by unfold takeOut; split <;> rfl
@[simp] theorem takeOut_k (s : State) : (takeOut s).k = s.k := by unfold takeOut; split <;> rfl
@[simp] theorem takeOut_inc (s : State) : (takeOut s).inc = s.inc := by unfold takeOut; split <;> rfl
@[simp] theorem takeOut_buf (s : State) : (takeOut s).buf = s.buf := by unfold takeOut; split <;> rfl
@[simp] theorem takeOut_cnt (s : State) : (takeOut s).cnt = s.cnt := by unfold takeOut; split <;> rfl
@[simp] theorem takeOut_col (s : State) : (takeOut s).col = s.col := by unfold takeOut; split <;> rfl
@[simp] theorem takeOut_quad (s : State) : (takeOut s).quad = s.quad := by unfold takeOut; split <;> rfl
@[simp] theorem takeOut_nch (s : State) : (takeOut s).nch = s.nch := by unfold takeOut; split <;> rfl
@[simp] theorem takeOut_pad (s : State) : (takeOut s).pad = s.pad := by unfold takeOut; split <;> rfl
@[simp] theorem takeOut_wsSet (s : State) : (takeOut s).wsSet = s.wsSet := by unfold takeOut; split <;> rfl
@[simp] theorem takeOut_resetLine (s : State) : (takeOut s).resetLine = s.resetLine := by unfold takeOut; split <;> rfl
@[simp] theorem takeOut_offers (s : State) : (takeOut s).offers = s.offers := by unfold takeOut; split <;> rfl

@[simp] theorem emitChar_phase (c : Byte) (s : State) : (emitChar c s).phase = s.phase := by unfold emitChar; dsimp only; split <;> rfl
@[simp] theorem emitChar_done (c : Byte) (s : State) : (emitChar c s).done = s.done := by unfold emitChar; dsimp only; split <;> rfl
@[simp] theorem emitChar_err (c : Byte) (s : State) : (emitChar c s).err = s.err := by unfold emitChar; dsimp only; split <;> rfl
@[simp] theorem emitChar_errInfo (c : Byte) (s : State) : (emitChar c s).errInfo = s.errInfo := by unfold emitChar; dsimp only; split <;> rfl
@[simp] theorem emitChar_k (c : Byte) (s : State) : (emitChar c s).k = s.k := by unfold emitChar; dsimp only; split <;> rfl
@[simp] theorem emitChar_inc (c : Byte) (s : State) : (emitChar c s).inc = s.inc := by unfold emitChar; dsimp only; split <;> rfl
@[simp] theorem emitChar_buf (c : Byte) (s : State) : (emitChar c s).buf = s.buf := by unfold emitChar; dsimp only; split <;> rfl
@[simp] theorem emitChar_cnt (c : Byte) (s : State) : (emitChar c s).cnt = s.cnt := by unfold emitChar; dsimp only; split <;> rfl
@[simp] theorem emitChar_quad (c : Byte) (s : State) : (emitChar c s).quad = s.quad := by unfold emitChar; dsimp only; split <;> rfl
@[simp] theorem emitChar_nch (c : Byte) (s : State) : (emitChar c s).nch = s.nch := by unfold emitChar; dsimp only; split <;> rfl
@[simp] theorem emitChar_pad (c : Byte) (s : State) : (emitChar c s).pad = s.pad := by unfold emitChar; dsimp only; split <;> rfl
@[simp] theorem emitChar_wsSet (c : Byte) (s : State) : (emitChar c s).wsSet = s.wsSet := by unfold emitChar; dsimp only; split <;> rfl
@[simp] theorem emitChar_resetLine (c : Byte) (s : State) : (emitChar c s).resetLine = s.resetLine := by unfold emitChar; dsimp only; split <;> rfl
@[simp] theorem emitChar_offers (c : Byte) (s : State) : (emitChar c s).offers = s.offers := by unfold emitChar; dsimp only; split <;> rfl
@[simp] theorem emitChar_taken (c : Byte) (s : State) : (emitChar c s).taken = s.taken := by unfold emitChar; dsimp only; split <;> rfl

@[simp] theorem closeLine_err (s : State) : (closeLine s).err = s.err := by unfold closeLine; split <;> rfl
@[simp] theorem closeLine_errInfo (s : State) : (closeLine s).errInfo = s.errInfo := by unfold closeLine; split <;> rfl
@[simp] theorem closeLine_k (s : State) : (closeLine s).k = s.k := by unfold closeLine; split <;> rfl
@[simp] theorem closeLine_inc (s : State) : (closeLine s).inc = s.inc := by unfold closeLine; split <;> rfl
@[simp] theorem closeLine_buf (s : State) : (closeLine s).buf = s.buf := by unfold closeLine; split <;> rfl
@[simp] theorem closeLine_cnt (s : State) : (closeLine s).cnt = s.cnt := by unfold closeLine; split <;> rfl
@[simp] theorem closeLine_quad (s : State) : (closeLine s).quad = s.quad := by unfold closeLine; split <;> rfl
@[simp] theorem closeLine_nch (s : State) : (closeLine s).nch = s.nch := by unfold closeLine; split <;> rfl
@[simp] theorem closeLine_pad (s : State) : (closeLine s).pad = s.pad := by unfold closeLine; split <;> rfl
@[simp] theorem closeLine_wsSet (s : State) : (closeLine s).wsSet = s.wsSet := by unfold closeLine; split <;> rfl
@[simp] theorem closeLine_resetLine (s : State) : (closeLine s).resetLine = s.resetLine := by unfold closeLine; split <;> rfl
@[simp] theorem closeLine_offers (s : State) : (closeLine s).offers = s.offers := by unfold closeLine; split <;> rfl
@[simp] theorem closeLine_taken (s : State) : (closeLine s).taken = s.taken := by unfold closeLine; split <;> rfl

@[simp] theorem closeLine_phase (s : State) : (closeLine s).phase = .idle := rfl
@[simp] theorem closeLine_done (s : State) : (closeLine s).done = true := rfl

/-- The output queue is only ever extended by a list of `emit`s. -/
theorem foldl_emit (bs : List Byte) (s : State) :
    bs.foldl (fun s b => emit b s) s = { s with outq := s.outq ++ bs } := by
  induction bs generalizing s with
  | nil => simp
  | cons b bs ih => rw [List.foldl_cons, ih]; simp [emit]

end Sys2Proof.Machine
end

