-- ==== Sys2Proof/Laws/Tables.lean ====
section
/-! SUPPORT. Lemmas about the arithmetic modulo 64 and the two constant tables. -/

namespace Sys2Proof

/-! ### The constants as numbers, and how they constrain each other (R6, R7, U9) -/

@[simp] theorem alphabetSize_eq : alphabetSize = 64 := rfl
@[simp] theorem blockRaw_eq : blockRaw = 3 := rfl
@[simp] theorem blockSym_eq : blockSym = 4 := rfl
@[simp] theorem lineWidth_eq : lineWidth = 76 := rfl
@[simp] theorem keyMax_eq : keyMax = 63 := rfl
@[simp] theorem kMax_eq : kMax = 126 := rfl

/-- The bound of `BitVec.isLt` on a sextet, as a number: `omega` does not unfold the width. -/
@[simp] theorem two_pow_symBits : 2 ^ symBits = 64 := rfl

/-- The bound of `BitVec.isLt` on a byte, as a number. -/
@[simp] theorem two_pow_byteBits : 2 ^ byteBits = 256 := rfl

theorem alphabetSize_eq_two_pow : alphabetSize = 2 ^ symBits := rfl

theorem block_bits : blockSym * symBits = blockRaw * byteBits := rfl

theorem keyMax_add_one : keyMax + 1 = alphabetSize := rfl

theorem kMax_eq_two_keyMax : kMax = 2 * keyMax := rfl

theorem blockSym_dvd_lineWidth : blockSym ∣ lineWidth := ⟨19, rfl⟩

theorem Sextet.toNat_lt (v : Sextet) : v.toNat < 64 := v.isLt

theorem Byte.toNat_lt (b : Byte) : b.toNat < 256 := b.isLt

/-! ### The arithmetic and the tables -/

theorem fmod64_toNat (x : Int) : ((fmod64 x).toNat : Int) = x % 64 := by
  have h0 : 0 ≤ x % 64 := Int.emod_nonneg x (by decide)
  have h1 : x % 64 < 64 := Int.emod_lt_of_pos x (by decide)
  have h2 : (x % 64).toNat < 64 := by omega
  show ((BitVec.ofNat symBits (x % 64).toNat).toNat : Int) = x % 64
  rw [BitVec.toNat_ofNat, two_pow_symBits, Nat.mod_eq_of_lt h2]
  omega

theorem fmod64_natCast (n : Nat) : (fmod64 (n : Int)).toNat = n % 64 := by
  have := fmod64_toNat (n : Int)
  omega

/-- Two integers that differ by a multiple of 64 have the same floored modulus. -/
theorem fmod64_congr {x y : Int} (h : x % 64 = y % 64) : fmod64 x = fmod64 y := by
  apply BitVec.eq_of_toNat_eq
  have hx := fmod64_toNat x
  have hy := fmod64_toNat y
  omega

theorem addMod_toNat (s off : Sextet) : (addMod s off).toNat = (s.toNat + off.toNat) % 64 := by
  have := fmod64_toNat ((s.toNat : Int) + (off.toNat : Int))
  unfold addMod
  omega

theorem subMod_toNat (v off : Sextet) : (subMod v off).toNat = (v.toNat + (64 - off.toNat)) % 64 := by
  have := fmod64_toNat ((v.toNat : Int) - (off.toNat : Int))
  have := Sextet.toNat_lt off
  unfold subMod
  omega

theorem symIndex_alpha : ∀ v : Sextet, symIndex (alpha v) = some v := by decide

theorem alpha_of_symIndex : ∀ (c : Byte) (v : Sextet), symIndex c = some v → alpha v = c := by
  have h : ∀ c : Byte, (symIndex c).all (fun v => alpha v == c) = true := by decide
  intro c v hv
  have := h c
  rw [hv] at this
  simpa using this

theorem alpha_injective {v w : Sextet} (h : alpha v = alpha w) : v = w := by
  have := symIndex_alpha v
  rw [h, symIndex_alpha w] at this
  exact (Option.some.inj this).symm

theorem alpha_ne_padChar (v : Sextet) : alpha v ≠ padChar := by
  intro h
  have := symIndex_alpha v
  rw [h] at this
  exact absurd this (by decide +revert)

theorem alpha_ne_newline (v : Sextet) : alpha v ≠ newline := by
  intro h
  have := symIndex_alpha v
  rw [h] at this
  exact absurd this (by decide +revert)

theorem symIndex_padChar : symIndex padChar = none := by decide

theorem classify_of_mem {ws : WsSet} {c : Byte} (h : c ∈ ws) : classify ws c = .ws := by
  simp [classify, h]

theorem classify_padChar {ws : WsSet} (h : padChar ∉ ws) : classify ws padChar = .pad := by
  simp [classify, h]

theorem classify_sym_iff {ws : WsSet} {c : Byte} {v : Sextet} :
    classify ws c = .sym v ↔ c ∉ ws ∧ symIndex c = some v := by
  unfold classify
  split
  · simp_all
  · split
    · rename_i h
      simp_all [symIndex_padChar]
    · split <;> simp_all

theorem classify_pad_iff {ws : WsSet} {c : Byte} : classify ws c = .pad ↔ c ∉ ws ∧ c = padChar := by
  unfold classify
  split
  · simp_all
  · split
    · simp_all
    · split <;> simp_all

theorem classify_ws_iff {ws : WsSet} {c : Byte} : classify ws c = .ws ↔ c ∈ ws := by
  unfold classify
  split
  · simp_all
  · split
    · simp_all
    · split <;> simp_all

theorem classify_inv_iff {ws : WsSet} {c : Byte} :
    classify ws c = .inv ↔ c ∉ ws ∧ c ≠ padChar ∧ symIndex c = none := by
  unfold classify
  split
  · simp_all
  · split
    · simp_all
    · split <;> simp_all

theorem newline_mem_of_legal {ws : WsSet} (h : Config.wsLegal ws = true) : newline ∈ ws := by
  simp only [Config.wsLegal, Bool.and_eq_true, List.contains_iff_mem] at h
  exact h.1.1

theorem legal_mem {ws : WsSet} (h : Config.wsLegal ws = true) {c : Byte} (hc : c ∈ ws) :
    c ≠ padChar ∧ symIndex c = none := by
  simp only [Config.wsLegal, Bool.and_eq_true, List.all_eq_true] at h
  have := h.2 c hc
  simpa using this

theorem alpha_not_mem_of_legal {ws : WsSet} (h : Config.wsLegal ws = true) (v : Sextet) : alpha v ∉ ws := by
  intro hm
  have := (legal_mem h hm).2
  rw [symIndex_alpha] at this
  cases this

theorem padChar_not_mem_of_legal {ws : WsSet} (h : Config.wsLegal ws = true) : padChar ∉ ws :=
  fun hm => (legal_mem h hm).1 rfl

theorem wsDefault_legal : Config.wsLegal Config.wsDefault = true := by decide

end Sys2Proof
end

