-- ==== Sys2Proof/Laws/Ops.lean ====
section
/-! SUPPORT. One lemma per shared operation that says what it does: the key scheduler, the output of a block, the encoder's and
the decoder's block operations, and acceptance by phase. -/

namespace Sys2Proof.Machine

/-! ### Acceptance by phase -/

theorem inPhase_of_eq {p : Phase} {s : State} (h : s.phase = p) (f : State → Result) : inPhase p s f = f s := by
  simp [inPhase, h]

theorem inPhase_of_ne {p : Phase} {s : State} (h : s.phase ≠ p) (f : State → Result) : inPhase p s f = .next s := by
  simp [inPhase, h]

/-- What `inPhase` can answer: the effect in its phase, the unchanged state elsewhere. -/
theorem inPhase_cases {p : Phase} {s : State} {f : State → Result} {r : Result} (h : inPhase p s f = r) :
    (s.phase = p ∧ f s = r) ∨ (s.phase ≠ p ∧ r = .next s) := by
  unfold inPhase at h
  split at h
  · exact .inl ⟨by assumption, h⟩
  · exact .inr ⟨by assumption, h.symm⟩

theorem skipWhitespace_eq (s : State) : skipWhitespace s = .next s := by
  unfold skipWhitespace inPhase
  split <;> rfl

/-! ### The key scheduler -/

theorem ksOffset_toNat (s : State) : (ksOffset s).toNat = s.k.toNat % 64 := fmod64_natCast _

theorem ksAdvance_k_toNat (s : State) : (ksAdvance s).k.toNat = s.k.toNat % 64 + s.inc.toNat := by
  have h := ksOffset_toNat s
  have hi := Sextet.toNat_lt s.inc
  simp only [ksAdvance_k, BitVec.toNat_add, BitVec.toNat_setWidth, h]
  omega

/-- After `j + 1` calls of `KsNext` the key state is the offset of call `j` plus the increment. -/
theorem ksAdvance_iterate_k (s : State) (j : Nat) :
    (ksAdvance^[j + 1] s).k.toNat = (s.k.toNat + j * s.inc.toNat) % 64 + s.inc.toNat ∧
      (ksAdvance^[j + 1] s).inc = s.inc := by
  induction j with
  | zero => exact ⟨by simpa using ksAdvance_k_toNat s, rfl⟩
  | succ j ih =>
    rw [Function.iterate_succ_apply']
    obtain ⟨hk, hi⟩ := ih
    refine ⟨?_, by simpa using hi⟩
    rw [ksAdvance_k_toNat, hk, hi, Nat.succ_mul]
    omega

/-- The offset of call `j` of `KsNext`. -/
theorem ksOffset_iterate (s : State) (j : Nat) :
    (ksOffset (ksAdvance^[j] s)).toNat = (s.k.toNat + j * s.inc.toNat) % 64 := by
  rw [ksOffset_toNat]
  cases j with
  | zero => simp
  | succ j =>
    rw [(ksAdvance_iterate_k s j).1, Nat.succ_mul]
    omega

/-- The key state after four calls of `KsNext` from key state `k` with increment `inc`. -/
theorem ksAdvance_four_k (s : State) :
    (ksAdvance (ksAdvance (ksAdvance (ksAdvance s)))).k = keyAfterBlock s.k.toNat s.inc.toNat := by
  apply BitVec.eq_of_toNat_eq
  have h : (ksAdvance (ksAdvance (ksAdvance (ksAdvance s)))).k.toNat =
      (s.k.toNat + 3 * s.inc.toNat) % 64 + s.inc.toNat := (ksAdvance_iterate_k s 3).1
  have hlt := (ksAdvance (ksAdvance (ksAdvance (ksAdvance s)))).k.isLt
  rw [h] at hlt
  rw [h, keyAfterBlock, BitVec.toNat_ofNat]
  exact (Nat.mod_eq_of_lt hlt).symm

/-- `KsNext` changes the key state and nothing else. -/
theorem ksAdvance_eq (s : State) : ksAdvance s = { s with k := (ksAdvance s).k } := rfl

/-- Four calls of `KsNext` change the key state and nothing else. -/
theorem ksAdvance_four_eq (s : State) :
    ksAdvance (ksAdvance (ksAdvance (ksAdvance s))) = { s with k := keyAfterBlock s.k.toNat s.inc.toNat } := by
  rw [← ksAdvance_four_k s]
  rfl

/-- The character `EncodeBlock` maps at position `j` of a block that starts in `s`. -/
theorem alpha_addMod_iterate (s : State) (j : Nat) (v : Sextet) :
    alpha (addMod v (ksOffset (ksAdvance^[j] s))) = keyedChar s.k.toNat s.inc.toNat j v := by
  unfold keyedChar addMod
  congr 1
  apply fmod64_congr
  rw [ksOffset_iterate]
  push_cast
  omega

/-- The sextet `DecodeBlock` recovers at position `j` of a block that starts in `s`. -/
theorem subMod_iterate (s : State) (j : Nat) (v : Sextet) :
    subMod v (ksOffset (ksAdvance^[j] s)) = unkeyedSym s.k.toNat s.inc.toNat j v := by
  unfold unkeyedSym subMod
  apply fmod64_congr
  rw [ksOffset_iterate]
  push_cast
  omega

/-! ### The output of a block -/

theorem emitChar_of_lt {c : Byte} {s : State} (h : s.col.toNat < 75) :
    emitChar c s = { s with outq := s.outq ++ [c], col := s.col + 1#7 } := by
  have h' : ¬ s.col.toNat + 1 = lineWidth := by rw [lineWidth_eq]; omega
  simp only [emitChar, emit, h', if_false]

theorem emitChar_of_eq {c : Byte} {s : State} (h : s.col.toNat = 75) :
    emitChar c s = { s with outq := s.outq ++ [c, newline], col := 0#7 } := by
  have h' : s.col.toNat + 1 = lineWidth := by rw [lineWidth_eq]; omega
  simp only [emitChar, emit, h', if_true, List.append_assoc, List.cons_append, List.nil_append]

/-- A character appends one or two bytes to OUTQ. -/
theorem emitChar_outq (c : Byte) (s : State) : ∃ e, (emitChar c s).outq = s.outq ++ e := by
  unfold emitChar
  dsimp only
  split
  · exact ⟨[c, newline], by simp [emit]⟩
  · exact ⟨[c], by simp [emit]⟩

/-- `EmitChar` changes OUTQ and COL and nothing else. -/
theorem emitChar_eq (c : Byte) (s : State) :
    emitChar c s = { s with outq := (emitChar c s).outq, col := (emitChar c s).col } := by
  unfold emitChar
  dsimp only
  split <;> rfl

/-- The four characters of a block that starts at a multiple of 4 below 76: a newline follows exactly where the block fills the
line. -/
theorem emitChar_four {s : State} (hd : 4 ∣ s.col.toNat) (hl : s.col.toNat ≤ 72) (a b c d : Byte) :
    emitChar d (emitChar c (emitChar b (emitChar a s))) =
      { s with
        outq := s.outq ++ [a, b, c, d] ++ (if s.col = 72#7 then [newline] else [])
        col := if s.col = 72#7 then 0#7 else s.col + 4#7 } := by
  have succ : ∀ v : BitVec 7, v.toNat ≤ 100 → (v + 1#7).toNat = v.toNat + 1 := by
    intro v hv
    rw [BitVec.toNat_add]
    exact Nat.mod_eq_of_lt (by simp; omega)
  have e1 := succ s.col (by omega)
  have e2 := succ (s.col + 1#7) (by omega)
  have e3 := succ (s.col + 1#7 + 1#7) (by omega)
  have h1 := emitChar_of_lt (c := a) (s := s) (by omega)
  rw [h1, emitChar_of_lt (c := b) (by dsimp only; omega), emitChar_of_lt (c := c) (by dsimp only; omega)]
  by_cases h : s.col = 72#7
  · have h72 : s.col.toNat = 72 := by rw [h]; rfl
    rw [emitChar_of_eq (by dsimp only; omega)]
    simp [h]
  · have h72 : s.col.toNat ≠ 72 := fun hc => h (BitVec.eq_of_toNat_eq (by simpa using hc))
    rw [emitChar_of_lt (by dsimp only; omega)]
    simp [h, BitVec.add_assoc]

/-! ### The encoder -/

/-- What `EncodeBlock` does where it reads only slots that hold a value. -/
theorem encodeBlock_of_chunk {n : Nat} {s : State} {r : RawBlock} (h : chunkBytes n s.buf = some r) :
    encodeBlock n s = .next
      (let u := { s with k := keyAfterBlock s.k.toNat s.inc.toNat }
       let t := packSextets r
       let c0 := keyedChar s.k.toNat s.inc.toNat 0 t.s0
       let c1 := keyedChar s.k.toNat s.inc.toNat 1 t.s1
       let c2 := if n < 2 then padChar else keyedChar s.k.toNat s.inc.toNat 2 t.s2
       let c3 := if n < blockRaw then padChar else keyedChar s.k.toNat s.inc.toNat 3 t.s3
       clearChunk (emitChar c3 (emitChar c2 (emitChar c1 (emitChar c0 u))))) := by
  have h0 := alpha_addMod_iterate s 0
  have h1 := alpha_addMod_iterate s 1
  have h2 := alpha_addMod_iterate s 2
  have h3 := alpha_addMod_iterate s 3
  simp only [Function.iterate_succ, Function.iterate_zero, Function.comp, id] at h0 h1 h2 h3
  simp only [encodeBlock, h, encodeSym, ksNext, h0, h1, h2, h3, ksAdvance_four_eq]

/-- `EncodeBlock` stops exactly where it reads a slot that holds no value. -/
theorem encodeBlock_of_absent {n : Nat} {s : State} (h : chunkBytes n s.buf = none) :
    encodeBlock n s = .fault .absentSlot := by
  simp [encodeBlock, h]

/-- `EncodeBlock` from a column that is a multiple of 4 below 76. -/
theorem encodeBlock_of_aligned {n : Nat} {s : State} {r : RawBlock} (h : chunkBytes n s.buf = some r)
    (hd : 4 ∣ s.col.toNat) (hl : s.col.toNat ≤ 72) :
    encodeBlock n s = .next
      { s with
        k := keyAfterBlock s.k.toNat s.inc.toNat
        buf := ChunkBuf.empty, cnt := 0#2
        col := if s.col = 72#7 then 0#7 else s.col + 4#7
        outq := s.outq ++ blockChars s.k.toNat s.inc.toNat 0 n r ++ (if s.col = 72#7 then [newline] else []) } := by
  rw [encodeBlock_of_chunk h]
  simp only
  rw [emitChar_four (s := { s with k := keyAfterBlock s.k.toNat s.inc.toNat }) hd hl]
  rfl

/-- Four characters extend OUTQ and change COL, and nothing else. -/
theorem emitChar_four_extends (s : State) (a b c d : Byte) :
    ∃ (col : BitVec 7) (e : List Byte),
      emitChar d (emitChar c (emitChar b (emitChar a s))) = { s with col := col, outq := s.outq ++ e } := by
  have one : ∀ (x : Byte) (u : State), ∃ (col : BitVec 7) (e : List Byte),
      emitChar x u = { u with col := col, outq := u.outq ++ e } := by
    intro x u
    obtain ⟨e, he⟩ := emitChar_outq x u
    exact ⟨(emitChar x u).col, e, by rw [← he]; exact emitChar_eq x u⟩
  obtain ⟨_, e1, h1⟩ := one a s
  rw [h1]
  obtain ⟨_, e2, h2⟩ := one b { s with col := _, outq := s.outq ++ e1 }
  rw [h2]
  obtain ⟨_, e3, h3⟩ := one c { s with col := _, outq := s.outq ++ e1 ++ e2 }
  rw [h3]
  obtain ⟨col, e4, h4⟩ := one d { s with col := _, outq := s.outq ++ e1 ++ e2 ++ e3 }
  rw [h4]
  exact ⟨col, e1 ++ e2 ++ e3 ++ e4, by simp⟩

/-- Everything `EncodeBlock` can do if it answers a next state: K, COL, OUTQ (extended at its tail), CNT and BUF are written and
nothing else. -/
theorem encodeBlock_next {n : Nat} {s t : State} (h : encodeBlock n s = .next t) :
    ∃ (r : RawBlock) (col : BitVec 7) (e : List Byte), chunkBytes n s.buf = some r ∧
      t = { s with
        k := keyAfterBlock s.k.toNat s.inc.toNat
        buf := ChunkBuf.empty, cnt := 0#2, col := col, outq := s.outq ++ e } := by
  cases hc : chunkBytes n s.buf with
  | none => rw [encodeBlock_of_absent hc] at h; cases h
  | some r =>
    rw [encodeBlock_of_chunk hc] at h
    injection h with h
    obtain ⟨col, e, he⟩ := emitChar_four_extends { s with k := keyAfterBlock s.k.toNat s.inc.toNat } _ _ _ _
    exact ⟨r, col, e, rfl, h.symm.trans (congrArg clearChunk he)⟩

/-- `EncodeBlock` gives no refusal. -/
theorem encodeBlock_not_refused {n : Nat} {s : State} {r : Refusal} : encodeBlock n s ≠ .refused r := by
  cases hc : chunkBytes n s.buf with
  | none => rw [encodeBlock_of_absent hc]; exact fun h => by cases h
  | some c => rw [encodeBlock_of_chunk hc]; exact fun h => by cases h

/-- The final newline and the end of a session, as one update. -/
theorem closeLine_eq (s : State) :
    closeLine s = { s with
      phase := .idle, done := true, col := 0#7
      outq := s.outq ++ (if s.col = 0#7 then [] else [newline]) } := by
  unfold closeLine
  split
  · rename_i h
    simp [endSession, ← h]
  · simp [endSession, emit]

/-- Everything the end of an encode session can do. -/
theorem finishEncode_next {s t : State} (h : finishEncode s = .next t) :
    (s.cnt = 0#2 ∧ t = closeLine s) ∨
    (s.cnt ≠ 0#2 ∧ ∃ u, encodeBlock s.cnt.toNat s = .next u ∧ t = closeLine u) := by
  unfold finishEncode at h
  split at h
  · rename_i hc
    injection h with h
    exact .inl ⟨hc, h.symm⟩
  · rename_i hc
    split at h
    · rename_i u hu
      injection h with h
      exact .inr ⟨hc, u, hu, h.symm⟩
    · cases h
    · cases h

/-- The arrival of a raw byte, by the number of bytes that wait. -/
theorem storeRaw_eq (b : Byte) (s : State) :
    storeRaw b s =
      if s.cnt = 0#2 then .next { s with buf := { s.buf with b0 := some b }, cnt := 1#2 }
      else if s.cnt = 1#2 then .next { s with buf := { s.buf with b1 := some b }, cnt := 2#2 }
      else if s.cnt = 2#2 then encodeBlock 3 { s with buf := { s.buf with b2 := some b } }
      else .fault .noSuchSlot := by
  obtain ⟨_, _, _, _, _, _, _, cnt, _, _, _, _, _, _, _, _, _⟩ := s
  have hc : cnt = 0#2 ∨ cnt = 1#2 ∨ cnt = 2#2 ∨ cnt = 3#2 := by
    have : ∀ c : BitVec 2, c = 0#2 ∨ c = 1#2 ∨ c = 2#2 ∨ c = 3#2 := by decide
    exact this cnt
  rcases hc with rfl | rfl | rfl | rfl <;> rfl

/-- Everything the arrival of a raw byte can do if it answers a next state. -/
theorem storeRaw_next {b : Byte} {s t : State} (h : storeRaw b s = .next t) :
    (s.cnt = 0#2 ∧ t = { s with buf := { s.buf with b0 := some b }, cnt := 1#2 }) ∨
    (s.cnt = 1#2 ∧ t = { s with buf := { s.buf with b1 := some b }, cnt := 2#2 }) ∨
    (s.cnt = 2#2 ∧ encodeBlock 3 { s with buf := { s.buf with b2 := some b } } = .next t) := by
  rw [storeRaw_eq] at h
  split at h
  · injection h with h
    exact .inl ⟨by assumption, h.symm⟩
  · split at h
    · injection h with h
      exact .inr (.inl ⟨by assumption, h.symm⟩)
    · split at h
      · exact .inr (.inr ⟨by assumption, h⟩)
      · cases h

/-! ### The decoder -/

/-- Steps 5 to 8 of `DecodeBlock`, as one update. -/
theorem decodeGoodBlock_eq (v : SymBlock) (s : State) :
    decodeGoodBlock v s =
      { s with
        k := keyAfterBlock s.k.toNat s.inc.toNat
        quad := QuadBuf.empty, nch := 0#2, pad := 0#3
        outq := s.outq ++ (blockBytes s.k.toNat s.inc.toNat 0 v).take (3 - s.pad.toNat) } := by
  have h0 := subMod_iterate s 0
  have h1 := subMod_iterate s 1
  have h2 := subMod_iterate s 2
  have h3 := subMod_iterate s 3
  simp only [Function.iterate_succ, Function.iterate_zero, Function.comp, id] at h0 h1 h2 h3
  simp only [decodeGoodBlock, decodeSym, ksNext, h0, h1, h2, h3, ksAdvance_four_eq, foldl_emit, blockRaw, blockBytes]
  rfl

/-- Everything `DecodeBlock` can do if it answers a next state: it decodes the block, or faults with E_CHAR or with E_PAD. -/
theorem decodeBlock_next {s t : State} (h : decodeBlock s = .next t) :
    ∃ q, s.quad.chars = some q ∧
      ((∃ c, blockValues s.wsSet q = none ∧ firstInvalid s.wsSet q = some c ∧ t = raiseFault .eChar c s) ∨
       (∃ v, blockValues s.wsSet q = some v ∧ 2 < s.pad.toNat ∧ t = raiseFault .ePad (s.pad.setWidth 8) s) ∨
       (∃ v, blockValues s.wsSet q = some v ∧ s.pad.toNat ≤ 2 ∧ t = decodeGoodBlock v s)) := by
  unfold decodeBlock at h
  split at h
  · cases h
  · rename_i q hq
    refine ⟨q, hq, ?_⟩
    split at h
    · rename_i hv
      split at h
      · rename_i c hc
        injection h with h
        exact .inl ⟨c, hv, hc, h.symm⟩
      · cases h
    · rename_i v hv
      split at h
      · rename_i hp
        injection h with h
        exact .inr (.inl ⟨v, hv, hp, h.symm⟩)
      · rename_i hp
        injection h with h
        exact .inr (.inr ⟨v, hv, Nat.le_of_not_lt hp, h.symm⟩)

/-- Everything the arrival of a significant character can do. -/
theorem storeChar_eq (c : Byte) (s : State) :
    storeChar c s =
      if s.nch = 3#2 then decodeBlock (collect c s) else .next { collect c s with nch := s.nch + 1#2 } := by
  have hc : s.nch.toNat + 1 = blockSym ↔ s.nch = 3#2 := by
    have : ∀ n : BitVec 2, n.toNat + 1 = blockSym ↔ n = 3#2 := by decide
    exact this s.nch
  simp only [storeChar, hc]

theorem charValue_eq_none_iff {ws : WsSet} {c : Byte} :
    charValue ws c = none ↔ c ∈ ws ∨ classify ws c = .inv := by
  unfold charValue
  split
  · rename_i v h
    simp [h, (classify_sym_iff.mp h).1]
  · rename_i h
    simp [h, (classify_pad_iff.mp h).1]
  · rename_i h
    simp [classify_ws_iff.mp h]
  · rename_i h
    simp [h]

/-- The value of a character that is in the alphabet or is the marker. -/
theorem charValue_of_significant {ws : WsSet} {c : Byte} (hw : c ∉ ws)
    (hc : c = padChar ∨ (symIndex c).isSome = true) : charValue ws c = some (significantValue c) := by
  rcases hc with rfl | hc
  · simp [charValue, classify_padChar hw, significantValue]
  · obtain ⟨v, hv⟩ := Option.isSome_iff_exists.mp hc
    have hp : c ≠ padChar := by
      rintro rfl
      rw [symIndex_padChar] at hv
      cases hv
    simp [charValue, classify_sym_iff.mpr ⟨hw, hv⟩, significantValue, hp, hv]

/-- The look-up of four characters that are in the alphabet or are markers. -/
theorem blockValues_of_significant {ws : WsSet} {q : CharBlock}
    (h : ∀ d ∈ [q.c0, q.c1, q.c2, q.c3], d ∉ ws ∧ (d = padChar ∨ (symIndex d).isSome = true)) :
    blockValues ws q = some
      { s0 := significantValue q.c0, s1 := significantValue q.c1, s2 := significantValue q.c2, s3 := significantValue q.c3 } := by
  have h0 := h q.c0 (by simp)
  have h1 := h q.c1 (by simp)
  have h2 := h q.c2 (by simp)
  have h3 := h q.c3 (by simp)
  simp only [blockValues, charValue_of_significant h0.1 h0.2, charValue_of_significant h1.1 h1.2,
    charValue_of_significant h2.1 h2.2, charValue_of_significant h3.1 h3.2]

/-- The look-up of a block fails where one of its characters has no value. -/
theorem blockValues_eq_none {ws : WsSet} {q : CharBlock} {d : Byte} (hd : d ∈ [q.c0, q.c1, q.c2, q.c3])
    (h : charValue ws d = none) : blockValues ws q = none := by
  simp only [List.mem_cons, List.not_mem_nil, or_false] at hd
  unfold blockValues
  split
  · rename_i h0 h1 h2 h3
    rcases hd with rfl | rfl | rfl | rfl <;> simp_all
  · rfl

/-- Collecting the fourth character of a block: the block in QUAD and its markers in PAD. -/
theorem collect_fourth {s : State} {x y z : Byte} (c : Byte) (hn : s.nch = 3#2) (h0 : s.quad.c0 = some x)
    (h1 : s.quad.c1 = some y) (h2 : s.quad.c2 = some z) :
    (collect c s).quad.chars = some { c0 := x, c1 := y, c2 := z, c3 := c } := by
  simp [collect, QuadBuf.write, hn, QuadBuf.chars, h0, h1, h2]

theorem collect_pad_toNat {s : State} {x y z : Byte} (c : Byte) (h : s.pad.toNat = [x, y, z].count padChar) :
    (collect c s).pad.toNat = markerCount { c0 := x, c1 := y, c2 := z, c3 := c } := by
  have hle : [x, y, z].count padChar ≤ 3 := List.count_le_length
  have e : [x, y, z, c].count padChar = [x, y, z].count padChar + (if c = padChar then 1 else 0) := by
    rw [show [x, y, z, c] = [x, y, z] ++ [c] from rfl, List.count_append]
    simp [List.count_cons]
  simp only [collect, markerCount, e]
  split
  · rw [BitVec.toNat_add, h]
    exact Nat.mod_eq_of_lt (by simp; omega)
  · simpa using h

end Sys2Proof.Machine
end

