-- ==== Sys2Proof/Laws/Fetch.lean ====
section
/-! SUPPORT. What a step can do: which event it accepts, what that event's word decodes to, and what the rows of phase DEC have in
common. -/

namespace Sys2Proof.Machine

/-! ### The choice of the event -/

theorem takeFirst_append {α : Type} {p : α → Bool} {pre post : List α} {a : α} (hpre : ∀ x ∈ pre, p x = false)
    (ha : p a = true) : takeFirst p (pre ++ a :: post) = some (a, pre ++ post) := by
  induction pre with
  | nil => simp [takeFirst, ha]
  | cons x pre ih =>
    have hx : p x = false := hpre x (List.mem_cons_self ..)
    have := ih fun y hy => hpre y (List.mem_cons_of_mem _ hy)
    simp [takeFirst, hx, this]

theorem takeFirst_eq_none {α : Type} {p : α → Bool} {l : List α} : takeFirst p l = none ↔ ∀ x ∈ l, p x = false := by
  induction l with
  | nil => simp [takeFirst]
  | cons x l ih =>
    cases hx : p x with
    | true => simp [takeFirst, hx]
    | false =>
      simp only [takeFirst, hx, List.mem_cons, forall_eq_or_imp, true_and, ← ih]
      cases takeFirst p l <;> simp

/-- What `takeFirst` answers is the first element that passes, with the rest in their order. -/
theorem takeFirst_eq_some {α : Type} {p : α → Bool} {l rest : List α} {a : α} (h : takeFirst p l = some (a, rest)) :
    ∃ pre post, l = pre ++ a :: post ∧ rest = pre ++ post ∧ p a = true ∧ ∀ x ∈ pre, p x = false := by
  induction l generalizing rest with
  | nil => cases h
  | cons x l ih =>
    unfold takeFirst at h
    split at h
    · rename_i hx
      injection h with h
      injection h with h1 h2
      subst h1 h2
      exact ⟨[], _, rfl, rfl, hx, by simp⟩
    · rename_i hx
      split at h
      · cases h
      · rename_i b r hr
        injection h with h
        injection h with h1 h2
        subst h1 h2
        obtain ⟨pre, post, hl, hrest, ha, hpre⟩ := ih hr
        refine ⟨x :: pre, post, by simp [hl], by simp [hrest], ha, ?_⟩
        intro y hy
        rcases List.mem_cons.mp hy with rfl | hy
        · simpa using hx
        · exact hpre y hy

/-! ### The cases of a step -/

/-- Everything a step can do: RESET on its line, nothing where no offered event is accepted, or the effect of the earliest accepted
one. -/
theorem step_cases (s : State) :
    (s.resetLine = true ∧ step s = .next (resetByLine s)) ∨
    (s.resetLine = false ∧ nextOffer s = none ∧ step s = .next s) ∨
    (s.resetLine = false ∧ ∃ o rest, nextOffer s = some (o, rest) ∧ accepts s o = true ∧ o ∈ s.offers ∧
      step s = runOffer o { s with offers := rest }) := by
  unfold step
  cases hl : s.resetLine with
  | true => exact .inl ⟨rfl, by simp⟩
  | false =>
    cases hn : nextOffer s with
    | none => exact .inr (.inl ⟨rfl, rfl, by simp⟩)
    | some x =>
      obtain ⟨o, rest⟩ := x
      obtain ⟨pre, post, hoff, _, ha, _⟩ := takeFirst_eq_some hn
      exact .inr (.inr ⟨rfl, o, rest, rfl, ha, by simp [hoff], by simp⟩)

/-- An accepted word decodes to a row of the table, or is a whitespace byte without one. -/
theorem decode_of_accepts {s : State} {w : PortWord} (h : accepts s (.word w) = true) :
    (∃ i, decode s.wsSet s.phase w = .instr i) ∨ ∃ c, decode s.wsSet s.phase w = .rejected (.wsWithoutRow c) := by
  cases w with
  | cmd w =>
    have hp : s.phase = .idle := by simpa [accepts] using h
    exact .inl ⟨decodeCmd w, by simp [decode, hp]⟩
  | beat w =>
    have hp : s.phase = .enc ∨ s.phase = .dec := by simpa [accepts] using h
    rcases hp with hp | hp
    · simp only [decode, decodeBeat, hp]
      split <;> exact .inl ⟨_, rfl⟩
    · simp only [decode, decodeBeat, hp]
      split
      · exact .inl ⟨_, rfl⟩
      · unfold decodeChar
        split
        · exact .inl ⟨_, rfl⟩
        · exact .inl ⟨_, rfl⟩
        · split
          · exact .inl ⟨_, rfl⟩
          · exact .inr ⟨_, rfl⟩
        · exact .inl ⟨_, rfl⟩

/-- A word that decodes to a row of the table is acceptable. -/
theorem accepts_of_decode {s : State} {w : PortWord} {i : Instr} (h : decode s.wsSet s.phase w = .instr i) :
    accepts s (.word w) = true := by
  cases w with
  | cmd w =>
    simp only [decode] at h
    split at h
    · rename_i hp
      simp [accepts, hp]
    · cases h
  | beat w =>
    simp only [decode] at h
    unfold decodeBeat at h
    split at h
    · cases h
    · cases h
    · rename_i hp
      simp [accepts, hp]
    · rename_i hp
      simp [accepts, hp]

theorem runWord_of_instr {s : State} {w : PortWord} {i : Instr} (h : decode s.wsSet s.phase w = .instr i) :
    runWord w s = exec i s := by
  simp [runWord, h]

theorem runWord_of_wsWithoutRow {s : State} {w : PortWord} {c : Byte}
    (h : decode s.wsSet s.phase w = .rejected (.wsWithoutRow c)) : runWord w s = .next s := by
  simp [runWord, h, skipWhitespace_eq]

/-- A run of `n + 1` steps whose first step answers a next state. -/
theorem run_succ {n : Nat} {s t : State} (h : step s = .next t) :
    Host.Core.run Sys2Proof.core (n + 1) s = Host.Core.run Sys2Proof.core n t := by
  have h' : Sys2Proof.core.step s = .next t := h
  simp only [Host.Core.run, h']

theorem run_zero (s : State) : Host.Core.run Sys2Proof.core 0 s = .next s := rfl

/-! ### The words of a session -/

theorem beatEos_data : ∀ b : Byte, beatEos (0#1 ++ b) = false := by decide

theorem beatData_data : ∀ b : Byte, beatData (0#1 ++ b) = b := by decide

theorem decode_dataBeat_enc (ws : WsSet) (b : Byte) : decode ws .enc (dataBeat b) = .instr (.encIn b) := by
  simp [decode, decodeBeat, dataBeat, beatEos_data, beatData_data]

theorem decode_dataBeat_dec (ws : WsSet) (b : Byte) : decode ws .dec (dataBeat b) = decodeChar ws b := by
  simp [decode, decodeBeat, dataBeat, beatEos_data, beatData_data]

theorem decode_eosBeat_enc (ws : WsSet) : decode ws .enc eosBeat = .instr .encEos := rfl

theorem decode_eosBeat_dec (ws : WsSet) : decode ws .dec eosBeat = .instr .decEos := rfl

/-! ### The rows of phase DEC -/

theorem symInstr_char : ∀ v : Sextet, (symInstr v).char? = some (alpha v, .sym v) := by decide

/-- A byte outside `WS_SET` decodes to the row of sub-format CHAR of its class. -/
theorem decodeChar_of_not_mem {ws : WsSet} {c : Byte} (h : c ∉ ws) :
    ∃ i k, decodeChar ws c = .instr i ∧ i.char? = some (c, k) ∧ k ≠ .ws := by
  unfold decodeChar
  split
  · rename_i v hv
    refine ⟨_, .sym v, rfl, ?_, by simp⟩
    rw [symInstr_char, alpha_of_symIndex c v (classify_sym_iff.mp hv).2]
  · rename_i hv
    refine ⟨_, .pad, rfl, ?_, by simp⟩
    rw [(classify_pad_iff.mp hv).2]
    rfl
  · rename_i hv
    exact absurd (classify_ws_iff.mp hv) h
  · exact ⟨_, .inv, rfl, rfl, by simp⟩

/-- The meaning of a row of sub-format CHAR: a whitespace row changes nothing, every other row takes its byte as a significant
character. -/
theorem exec_of_char {i : Instr} {c : Byte} {k : CharClass} (h : i.char? = some (c, k)) (s : State) :
    exec i s = if k = .ws then .next s else acceptChar c s := by
  cases i <;> simp only [Instr.char?, Option.some.injEq, Prod.mk.injEq, reduceCtorEq] at h <;>
    obtain ⟨rfl, rfl⟩ := h <;> first | rfl | exact skipWhitespace_eq s

/-- A row of sub-format CHAR that is no whitespace row, in phase DEC. -/
theorem exec_of_significant {i : Instr} {c : Byte} {k : CharClass} {s : State} (h : i.char? = some (c, k)) (hk : k ≠ .ws)
    (hp : s.phase = .dec) : exec i s = storeChar c s := by
  rw [exec_of_char h, if_neg hk, acceptChar, inPhase_of_eq hp]

/-- A byte outside `WS_SET`, accepted in phase DEC, is taken as a significant character. -/
theorem runWord_significant {s : State} {c : Byte} (hp : s.phase = .dec) (hc : c ∉ s.wsSet) :
    runWord (dataBeat c) s = storeChar c s := by
  obtain ⟨i, k, hd, hi, hk⟩ := decodeChar_of_not_mem hc
  have hd' : decode s.wsSet s.phase (dataBeat c) = .instr i := by rw [hp, decode_dataBeat_dec, hd]
  rw [runWord_of_instr hd', exec_of_char hi, if_neg hk, acceptChar, inPhase_of_eq hp]

/-- Every row of the table: one of the five rows that do not look at a character, or a row of sub-format CHAR. -/
theorem instr_cases (i : Instr) :
    (∃ kb ki, i = .enc kb ki) ∨ (∃ kb ki, i = .dec kb ki) ∨ (∃ b, i = .encIn b) ∨ i = .encEos ∨ i = .decEos ∨
      (i.phase = .dec ∧ ∃ c k, i.char? = some (c, k)) := by
  cases i <;> simp [Instr.phase, Instr.char?]

end Sys2Proof.Machine
end

