-- ==== Sys2Proof/Laws/PerInstr.lean ====
section
/-! SUPPORT. The family `RowFormat`: for each row of the table, its word has the format that its phase accepts (R112), and a row of
sub-format CHAR is a data beat of its own byte (R93). -/

namespace Sys2Proof.Laws.RowFormat

/-- The word of a row is a command word exactly in phase IDLE, an input beat in ENC and DEC; and the beat of a CHAR row has EOS = 0
and the row's byte as DATA. -/
def Statement (i : Instr) : Prop :=
  match encode i with
  | .cmd _ => i.phase = .idle
  | .beat w => (i.phase = .enc ∨ i.phase = .dec) ∧ ∀ c k, i.char? = some (c, k) → w = 0#1 ++ c

/-- A row of sub-format CHAR whose word is the data beat of its byte. -/
theorem of_char {i : Instr} {c : Byte} {k : CharClass} {w : BeatWord} (he : encode i = .beat w) (hc : i.char? = some (c, k))
    (hp : i.phase = .dec) (hw : w = 0#1 ++ c) : Statement i := by
  simp only [Statement, he, hc, Option.some.injEq, Prod.mk.injEq]
  exact ⟨.inr hp, fun _ _ h => h.1 ▸ hw⟩

theorem enc (kb ki : Sextet) : Statement (.enc kb ki) := rfl
theorem dec (kb ki : Sextet) : Statement (.dec kb ki) := rfl
theorem encIn (b : Byte) : Statement (.encIn b) := ⟨.inl rfl, fun _ _ h => nomatch h⟩
theorem encEos : Statement .encEos := ⟨.inl rfl, fun _ _ h => nomatch h⟩
theorem decEos : Statement .decEos := ⟨.inr rfl, fun _ _ h => nomatch h⟩
theorem decSym0 : Statement .decSym0 := of_char rfl rfl rfl (by decide)
theorem decSym1 : Statement .decSym1 := of_char rfl rfl rfl (by decide)
theorem decSym2 : Statement .decSym2 := of_char rfl rfl rfl (by decide)
theorem decSym3 : Statement .decSym3 := of_char rfl rfl rfl (by decide)
theorem decSym4 : Statement .decSym4 := of_char rfl rfl rfl (by decide)
theorem decSym5 : Statement .decSym5 := of_char rfl rfl rfl (by decide)
theorem decSym6 : Statement .decSym6 := of_char rfl rfl rfl (by decide)
theorem decSym7 : Statement .decSym7 := of_char rfl rfl rfl (by decide)
theorem decSym8 : Statement .decSym8 := of_char rfl rfl rfl (by decide)
theorem decSym9 : Statement .decSym9 := of_char rfl rfl rfl (by decide)
theorem decSym10 : Statement .decSym10 := of_char rfl rfl rfl (by decide)
theorem decSym11 : Statement .decSym11 := of_char rfl rfl rfl (by decide)
theorem decSym12 : Statement .decSym12 := of_char rfl rfl rfl (by decide)
theorem decSym13 : Statement .decSym13 := of_char rfl rfl rfl (by decide)
theorem decSym14 : Statement .decSym14 := of_char rfl rfl rfl (by decide)
theorem decSym15 : Statement .decSym15 := of_char rfl rfl rfl (by decide)
theorem decSym16 : Statement .decSym16 := of_char rfl rfl rfl (by decide)
theorem decSym17 : Statement .decSym17 := of_char rfl rfl rfl (by decide)
theorem decSym18 : Statement .decSym18 := of_char rfl rfl rfl (by decide)
theorem decSym19 : Statement .decSym19 := of_char rfl rfl rfl (by decide)
theorem decSym20 : Statement .decSym20 := of_char rfl rfl rfl (by decide)
theorem decSym21 : Statement .decSym21 := of_char rfl rfl rfl (by decide)
theorem decSym22 : Statement .decSym22 := of_char rfl rfl rfl (by decide)
theorem decSym23 : Statement .decSym23 := of_char rfl rfl rfl (by decide)
theorem decSym24 : Statement .decSym24 := of_char rfl rfl rfl (by decide)
theorem decSym25 : Statement .decSym25 := of_char rfl rfl rfl (by decide)
theorem decSym26 : Statement .decSym26 := of_char rfl rfl rfl (by decide)
theorem decSym27 : Statement .decSym27 := of_char rfl rfl rfl (by decide)
theorem decSym28 : Statement .decSym28 := of_char rfl rfl rfl (by decide)
theorem decSym29 : Statement .decSym29 := of_char rfl rfl rfl (by decide)
theorem decSym30 : Statement .decSym30 := of_char rfl rfl rfl (by decide)
theorem decSym31 : Statement .decSym31 := of_char rfl rfl rfl (by decide)
theorem decSym32 : Statement .decSym32 := of_char rfl rfl rfl (by decide)
theorem decSym33 : Statement .decSym33 := of_char rfl rfl rfl (by decide)
theorem decSym34 : Statement .decSym34 := of_char rfl rfl rfl (by decide)
theorem decSym35 : Statement .decSym35 := of_char rfl rfl rfl (by decide)
theorem decSym36 : Statement .decSym36 := of_char rfl rfl rfl (by decide)
theorem decSym37 : Statement .decSym37 := of_char rfl rfl rfl (by decide)
theorem decSym38 : Statement .decSym38 := of_char rfl rfl rfl (by decide)
theorem decSym39 : Statement .decSym39 := of_char rfl rfl rfl (by decide)
theorem decSym40 : Statement .decSym40 := of_char rfl rfl rfl (by decide)
theorem decSym41 : Statement .decSym41 := of_char rfl rfl rfl (by decide)
theorem decSym42 : Statement .decSym42 := of_char rfl rfl rfl (by decide)
theorem decSym43 : Statement .decSym43 := of_char rfl rfl rfl (by decide)
theorem decSym44 : Statement .decSym44 := of_char rfl rfl rfl (by decide)
theorem decSym45 : Statement .decSym45 := of_char rfl rfl rfl (by decide)
theorem decSym46 : Statement .decSym46 := of_char rfl rfl rfl (by decide)
theorem decSym47 : Statement .decSym47 := of_char rfl rfl rfl (by decide)
theorem decSym48 : Statement .decSym48 := of_char rfl rfl rfl (by decide)
theorem decSym49 : Statement .decSym49 := of_char rfl rfl rfl (by decide)
theorem decSym50 : Statement .decSym50 := of_char rfl rfl rfl (by decide)
theorem decSym51 : Statement .decSym51 := of_char rfl rfl rfl (by decide)
theorem decSym52 : Statement .decSym52 := of_char rfl rfl rfl (by decide)
theorem decSym53 : Statement .decSym53 := of_char rfl rfl rfl (by decide)
theorem decSym54 : Statement .decSym54 := of_char rfl rfl rfl (by decide)
theorem decSym55 : Statement .decSym55 := of_char rfl rfl rfl (by decide)
theorem decSym56 : Statement .decSym56 := of_char rfl rfl rfl (by decide)
theorem decSym57 : Statement .decSym57 := of_char rfl rfl rfl (by decide)
theorem decSym58 : Statement .decSym58 := of_char rfl rfl rfl (by decide)
theorem decSym59 : Statement .decSym59 := of_char rfl rfl rfl (by decide)
theorem decSym60 : Statement .decSym60 := of_char rfl rfl rfl (by decide)
theorem decSym61 : Statement .decSym61 := of_char rfl rfl rfl (by decide)
theorem decSym62 : Statement .decSym62 := of_char rfl rfl rfl (by decide)
theorem decSym63 : Statement .decSym63 := of_char rfl rfl rfl (by decide)
theorem decPad : Statement .decPad := of_char rfl rfl rfl (by decide)
theorem decWsHt : Statement .decWsHt := of_char rfl rfl rfl (by decide)
theorem decWsLf : Statement .decWsLf := of_char rfl rfl rfl (by decide)
theorem decWsVt : Statement .decWsVt := of_char rfl rfl rfl (by decide)
theorem decWsFf : Statement .decWsFf := of_char rfl rfl rfl (by decide)
theorem decWsCr : Statement .decWsCr := of_char rfl rfl rfl (by decide)
theorem decWsSp : Statement .decWsSp := of_char rfl rfl rfl (by decide)
theorem decInv (c : Byte) : Statement (.decInv c) := of_char rfl rfl rfl rfl

end Sys2Proof.Laws.RowFormat
end

