-- ==== Sys2Proof/Tests/Slice0.lean ====
section
/-! SUPPORT. The model's own tests, each about one step on a small state, with the place in spec/ its expected value comes from; and,
for each obligation with hypotheses, a named theorem that shows a concrete state and operands that meet them together. -/

namespace Sys2Proof.Tests

open Sys2Proof.Machine Sys2Proof.Safety

/-! ### Helpers -/

/-- A state in phase ENC whose chunk holds the first bytes of `bytes`, with COL = `col`. -/
def encWith (k inc : Nat) (bytes : List Byte) (col : Nat) : State :=
  { State.reset with
    phase := .enc, k := BitVec.ofNat 7 k, inc := BitVec.ofNat 6 inc
    buf := { b0 := bytes[0]?, b1 := bytes[1]?, b2 := bytes[2]? }
    cnt := BitVec.ofNat 2 bytes.length, col := BitVec.ofNat 7 col }

/-- A state in phase DEC whose QUAD holds the characters of `chars`. -/
def decWith (k inc : Nat) (chars : List Byte) : State :=
  { State.reset with
    phase := .dec, k := BitVec.ofNat 7 k, inc := BitVec.ofNat 6 inc
    quad := { c0 := chars[0]?, c1 := chars[1]?, c2 := chars[2]?, c3 := chars[3]? }
    nch := BitVec.ofNat 2 chars.length, pad := BitVec.ofNat 3 (chars.count padChar) }

/-- The state of the example of R280: a fault with three bytes still to take. -/
def faulted : State :=
  { State.reset with phase := .fault, err := .eChar, errInfo := 0x21#8, outq := [0x4D#8, 0x61#8, 0x6E#8] }

/-- A result that is a next state with a property. -/
def after (r : Result) (p : State → Bool) : Bool :=
  match r with
  | .next t => p t
  | .fault _ => false
  | .refused _ => false

/-- A result that stops with a fault of the model. -/
def stopsWith (r : Result) (f : Fault) : Bool :=
  match r with
  | .next _ => false
  | .fault g => g == f
  | .refused _ => false

/-- The state a run of `n` steps leads to. -/
def endOf (n : Nat) (s : State) : State :=
  match Host.Core.run Sys2Proof.core n s with
  | .next t => t
  | .fault _ => s
  | .refused _ => s

/-- A core after RESET to which the host offers a session. -/
def offering (cmd : PortWord) (S : List Byte) : State := { State.reset with offers := sessionOffers cmd S }

/-! ### Well-formed and ill-formed instructions (R8, R100, R102, R112) -/

theorem test_decInv_alphabet_illformed : (Instr.decInv 0x41#8).wellFormed Config.wsDefault = false := by decide

theorem test_decInv_pad_illformed : (Instr.decInv 0x3D#8).wellFormed Config.wsDefault = false := by decide

theorem test_decInv_space_illformed : (Instr.decInv 0x20#8).wellFormed Config.wsDefault = false := by decide

theorem test_decWsHt_illformed_under_minimal_set : Instr.decWsHt.wellFormed [0x0A#8, 0x20#8] = false := by decide

theorem test_decSym0_illformed_under_illegal_set : Instr.decSym0.wellFormed [0x0A#8, 0x20#8, 0x41#8] = false := by decide

theorem test_decPad_illformed_under_illegal_set : Instr.decPad.wellFormed [0x0A#8, 0x20#8, 0x3D#8] = false := by decide

theorem test_decInv_tab_wellformed_under_minimal_set : (Instr.decInv 0x09#8).wellFormed [0x0A#8, 0x20#8] = true := by decide

theorem test_rows_wellformed :
    (∀ v : Sextet, (symInstr v).wellFormed Config.wsDefault = true) ∧
    ∀ i ∈ [Instr.enc 63#6 0#6, .dec 0#6 63#6, .encIn 0xFF#8, .encEos, .decEos, .decPad, .decWsHt, .decWsLf, .decWsVt, .decWsFf,
      .decWsCr, .decWsSp, .decInv 0x21#8], i.wellFormed Config.wsDefault = true := by decide

theorem test_wsLegal_refuses_pad : Config.wsLegal [0x0A#8, 0x20#8, 0x3D#8] = false := by decide

theorem test_wsLegal_refuses_alphabet : Config.wsLegal [0x0A#8, 0x20#8, 0x2F#8] = false := by decide

theorem test_wsLegal_needs_newline_and_space :
    Config.wsLegal [0x20#8] = false ∧ Config.wsLegal [0x0A#8] = false ∧ Config.wsLegal [0x20#8, 0x0A#8] = true := by decide

/-! ### Decoding, from words written out (R91, R93, R96, R112; vectors V100 to V102) -/

/-- Rows DEC.SYM.0 to DEC.SYM.15 with their words: EOS = 0 and the byte of the table of R96, bit by bit. -/
def symRows0 : List (Instr × BeatWord) :=
  [(.decSym0, 0b001000001#9), (.decSym1, 0b001000010#9), (.decSym2, 0b001000011#9), (.decSym3, 0b001000100#9),
   (.decSym4, 0b001000101#9), (.decSym5, 0b001000110#9), (.decSym6, 0b001000111#9), (.decSym7, 0b001001000#9),
   (.decSym8, 0b001001001#9), (.decSym9, 0b001001010#9), (.decSym10, 0b001001011#9), (.decSym11, 0b001001100#9),
   (.decSym12, 0b001001101#9), (.decSym13, 0b001001110#9), (.decSym14, 0b001001111#9), (.decSym15, 0b001010000#9)]

/-- Rows DEC.SYM.16 to DEC.SYM.31 with their words: EOS = 0 and the byte of the table of R96, bit by bit. -/
def symRows1 : List (Instr × BeatWord) :=
  [(.decSym16, 0b001010001#9), (.decSym17, 0b001010010#9), (.decSym18, 0b001010011#9), (.decSym19, 0b001010100#9),
   (.decSym20, 0b001010101#9), (.decSym21, 0b001010110#9), (.decSym22, 0b001010111#9), (.decSym23, 0b001011000#9),
   (.decSym24, 0b001011001#9), (.decSym25, 0b001011010#9), (.decSym26, 0b001100001#9), (.decSym27, 0b001100010#9),
   (.decSym28, 0b001100011#9), (.decSym29, 0b001100100#9), (.decSym30, 0b001100101#9), (.decSym31, 0b001100110#9)]

/-- Rows DEC.SYM.32 to DEC.SYM.47 with their words: EOS = 0 and the byte of the table of R96, bit by bit. -/
def symRows2 : List (Instr × BeatWord) :=
  [(.decSym32, 0b001100111#9), (.decSym33, 0b001101000#9), (.decSym34, 0b001101001#9), (.decSym35, 0b001101010#9),
   (.decSym36, 0b001101011#9), (.decSym37, 0b001101100#9), (.decSym38, 0b001101101#9), (.decSym39, 0b001101110#9),
   (.decSym40, 0b001101111#9), (.decSym41, 0b001110000#9), (.decSym42, 0b001110001#9), (.decSym43, 0b001110010#9),
   (.decSym44, 0b001110011#9), (.decSym45, 0b001110100#9), (.decSym46, 0b001110101#9), (.decSym47, 0b001110110#9)]

/-- Rows DEC.SYM.48 to DEC.SYM.63 with their words: EOS = 0 and the byte of the table of R96, bit by bit. -/
def symRows3 : List (Instr × BeatWord) :=
  [(.decSym48, 0b001110111#9), (.decSym49, 0b001111000#9), (.decSym50, 0b001111001#9), (.decSym51, 0b001111010#9),
   (.decSym52, 0b000110000#9), (.decSym53, 0b000110001#9), (.decSym54, 0b000110010#9), (.decSym55, 0b000110011#9),
   (.decSym56, 0b000110100#9), (.decSym57, 0b000110101#9), (.decSym58, 0b000110110#9), (.decSym59, 0b000110111#9),
   (.decSym60, 0b000111000#9), (.decSym61, 0b000111001#9), (.decSym62, 0b000101011#9), (.decSym63, 0b000101111#9)]

theorem test_decode_sym_0_15 : ∀ p ∈ symRows0, decode Config.wsDefault .dec (.beat p.2) = .instr p.1 := by decide

theorem test_decode_sym_16_31 : ∀ p ∈ symRows1, decode Config.wsDefault .dec (.beat p.2) = .instr p.1 := by decide

theorem test_decode_sym_32_47 : ∀ p ∈ symRows2, decode Config.wsDefault .dec (.beat p.2) = .instr p.1 := by decide

theorem test_decode_sym_48_63 : ∀ p ∈ symRows3, decode Config.wsDefault .dec (.beat p.2) = .instr p.1 := by decide

theorem test_decode_whitespace_rows :
    ∀ p ∈ [(Instr.decWsHt, 0b000001001#9), (.decWsLf, 0b000001010#9), (.decWsVt, 0b000001011#9), (.decWsFf, 0b000001100#9),
      (.decWsCr, 0b000001101#9), (.decWsSp, 0b000100000#9)],
      decode Config.wsDefault .dec (.beat p.2) = .instr p.1 := by decide

theorem test_decode_pad : decode Config.wsDefault .dec (.beat 0b000111101#9) = .instr .decPad := by decide

/-- The edges of every INV range of R102 (V102). -/
theorem test_decode_inv :
    ∀ c ∈ [0x00#8, 0x08#8, 0x0E#8, 0x1F#8, 0x21#8, 0x2A#8, 0x2C#8, 0x2D#8, 0x2E#8, 0x3A#8, 0x3C#8, 0x3E#8, 0x40#8, 0x5B#8,
      0x5F#8, 0x60#8, 0x7B#8, 0x7F#8, 0x80#8, 0xFF#8],
      decode Config.wsDefault .dec (.beat (0b0#1 ++ c)) = .instr (.decInv c) := by decide

theorem test_decode_enc : decode Config.wsDefault .idle (.cmd 0b1000101000111#13) = .instr (.enc 5#6 7#6) := by decide

theorem test_decode_dec : decode Config.wsDefault .idle (.cmd 0b0001010010101#13) = .instr (.dec 10#6 21#6) := by decide

theorem test_decode_encIn : decode Config.wsDefault .enc (.beat 0b001001101#9) = .instr (.encIn 0x4D#8) := by decide

theorem test_decode_encEos : decode Config.wsDefault .enc (.beat 0b100000000#9) = .instr .encEos := by decide

/-- Bits 7:0 of an EOS beat are ignored (R105). -/
theorem test_decode_decEos : decode Config.wsDefault .dec (.beat 0b110101010#9) = .instr .decEos := by decide

/-- The same byte has another meaning in phase ENC, and none in phase IDLE (R112, V110). -/
theorem test_decode_by_phase :
    decode Config.wsDefault .enc (.beat 0x041#9) = .instr (.encIn 0x41#8) ∧
    decode Config.wsDefault .idle (.beat 0x041#9) = .rejected .held ∧
    decode Config.wsDefault .enc (.cmd 0x0000#13) = .rejected .held := by decide

theorem test_decode_ws_without_row :
    decode [0x0A#8, 0x20#8, 0xA0#8] .dec (.beat 0x0A0#9) = .rejected (.wsWithoutRow 0xA0#8) := by decide

theorem test_table_sym : ∀ p ∈ symRows0 ++ symRows3, decodeTableWord 9 p.2.toNat = some p.1 := by decide

theorem test_table_commands :
    decodeTableWord 13 0x1147 = some (.enc 5#6 7#6) ∧ decodeTableWord 13 0x0295 = some (.dec 10#6 21#6) ∧
    decodeTableWord 16 0x1FFF = some (.enc 63#6 63#6) := by decide

theorem test_table_beats :
    decodeTableWord 9 0x100 = some .encEos ∧ decodeTableWord 9 0x021 = some (.encIn 0x21#8) ∧
    decodeTableWord 9 0x03D = some .decPad ∧ decodeTableWord 9 0x00A = some .decWsLf ∧ decodeTableWord 16 0x2000 = none := by decide

/-! ### The tables and the arithmetic -/

/-- V30. -/
theorem test_fmod64 :
    fmod64 (-130) = 62#6 ∧ fmod64 (-65) = 63#6 ∧ fmod64 (-64) = 0#6 ∧ fmod64 (-1) = 63#6 ∧ fmod64 127 = 63#6 ∧
    fmod64 128 = 0#6 := by decide

/-- V31. -/
theorem test_addMod_subMod :
    addMod 63#6 1#6 = 0#6 ∧ addMod 63#6 63#6 = 62#6 ∧ subMod 0#6 1#6 = 63#6 ∧ subMod 31#6 33#6 = 62#6 ∧ subMod 0#6 63#6 = 1#6 := by
  decide

/-- V103: 01 02 03 and FC 0F C0. -/
theorem test_pack :
    packSextets { b0 := 0x01#8, b1 := 0x02#8, b2 := 0x03#8 } = { s0 := 0#6, s1 := 16#6, s2 := 8#6, s3 := 3#6 } ∧
    unpackBytes { s0 := 63#6, s1 := 0#6, s2 := 63#6, s3 := 0#6 } = { b0 := 0xFC#8, b1 := 0x0F#8, b2 := 0xC0#8 } := by decide

/-- V22 and V25: the key passes 64 and is not reduced when it is stored. -/
theorem test_ksNext :
    (ksNext (encWith 126 63 [] 0)).1 = 62#6 ∧ (ksNext (encWith 126 63 [] 0)).2.k = 125#7 ∧
    (ksNext (encWith 63 1 [] 0)).2.k = 64#7 := by decide

/-- The example of R149. -/
theorem test_emitChar_wraps :
    (emitChar 0x79#8 (encWith 0 0 [] 75)).outq = [0x79#8, 0x0A#8] ∧ (emitChar 0x79#8 (encWith 0 0 [] 75)).col = 0#7 := by decide

/-- V104: the words 0x0000, 0x0001, 0x0002, 0x0433. -/
theorem test_statusWord :
    statusWord State.reset = 0x0000#13 ∧ statusWord (encWith 0 0 [] 0) = 0x0001#13 ∧ statusWord (decWith 0 0 []) = 0x0002#13 ∧
    statusWord faulted = 0x0433#13 ∧ faultSignal faulted = true ∧ doneSignal faulted = false := by decide

/-! ### The commands (R210, R211) -/

/-- The example of R210, from a state with the leftovers of another session (V118). -/
theorem test_enc :
    after (exec (.enc 5#6 7#6) { State.reset with done := true, k := 123#7, cnt := 1#2, col := 4#7 }) (fun t =>
      t == { State.reset with phase := .enc, k := 5#7, inc := 7#6 }) = true := by decide

/-- The example of R211; a command in phase ENC is held (V112). -/
theorem test_dec :
    after (exec (.dec 10#6 21#6) State.reset) (fun t => t == { State.reset with phase := .dec, k := 10#7, inc := 21#6 }) = true ∧
    after (exec (.dec 10#6 21#6) (encWith 0 0 [0x4D#8] 0)) (fun t => t == encWith 0 0 [0x4D#8] 0) = true := by decide

/-! ### The encoder -/

/-- The example of R143 (program P1). -/
theorem test_encIn_completes_block :
    after (exec (.encIn 0x6E#8) (encWith 0 0 [0x4D#8, 0x61#8] 0)) (fun t =>
      t == { encWith 0 0 [] 4 with outq := [0x54#8, 0x57#8, 0x46#8, 0x75#8] }) = true := by decide

/-- Program P7: the block that fills a line emits its newline in the same step. -/
theorem test_encIn_wraps_line :
    after (exec (.encIn 56#8) (encWith 0 0 [54#8, 55#8] 72)) (fun t =>
      t == { encWith 0 0 [] 0 with outq := [0x4E#8, 0x6A#8, 0x63#8, 0x34#8, 0x0A#8] }) = true := by decide

/-- V33 (program P2a): the short block of two bytes, with its marker, the newline and the final key. -/
theorem test_encEos_two_bytes :
    after (exec .encEos (encWith 5 7 [0x68#8, 0x69#8] 0)) (fun t =>
      (t.phase, t.done, t.k.toNat, t.cnt.toNat, t.col.toNat) == (.idle, true, 33, 0, 0) &&
        t.outq == [0x66#8, 0x53#8, 0x33#8, 0x3D#8, 0x0A#8]) = true := by decide

/-- V32: one byte, keys 63 and 63; the key advances over both markers. -/
theorem test_encEos_one_byte :
    after (exec .encEos (encWith 63 63 [0x00#8] 0)) (fun t =>
      t.k.toNat == 123 && t.outq == [0x2F#8, 0x2B#8, 0x3D#8, 0x3D#8, 0x0A#8]) = true := by decide

/-- A byte that arrives with CNT = 3, or a chunk with an absent byte, is a fault of the model (R24, R44). -/
theorem test_encoder_model_faults :
    stopsWith (exec (.encIn 0x00#8) { encWith 0 0 [] 0 with cnt := 3#2 }) .noSuchSlot = true ∧
    stopsWith (exec .encEos { encWith 0 0 [] 0 with cnt := 1#2 }) .absentSlot = true := by decide

/-! ### The decoder -/

/-- Each row DEC.SYM stores its own byte of the table of R96 (R174). -/
theorem test_decSym_stores :
    ∀ p ∈ symRows0 ++ symRows1 ++ symRows2 ++ symRows3,
      after (exec p.1 (decWith 0 0 [])) (fun t => t == decWith 0 0 [p.2.extractLsb' 0 8]) = true := by decide

/-- V72 and V73: the fourth `A` of `AAAA` under keys 1, 0 and 0, 1 (a negative difference); V79: `=AAA` emits two bytes. -/
theorem test_decSym0_completes_block :
    after (exec .decSym0 (decWith 1 0 [0x41#8, 0x41#8, 0x41#8])) (fun t => t.outq == [0xFF#8, 0xFF#8, 0xFF#8]) = true ∧
    after (exec .decSym0 (decWith 0 1 [0x41#8, 0x41#8, 0x41#8])) (fun t =>
      t == { decWith 4 1 [] with outq := [0x03#8, 0xFF#8, 0xBD#8] }) = true ∧
    after (exec .decSym0 (decWith 0 0 [0x3D#8, 0x41#8, 0x41#8])) (fun t => t.outq == [0x00#8, 0x00#8]) = true := by decide

/-- V69 (program P2b): `fS3=` under keys 5, 7. -/
theorem test_decPad_completes_block :
    after (exec .decPad (decWith 5 7 [0x66#8, 0x53#8, 0x33#8])) (fun t =>
      t == { decWith 33 7 [] with outq := [0x68#8, 0x69#8] }) = true := by decide

/-- V96: the third marker of `T===` faults with E_PAD and takes no offset; V95: `==!=` is E_CHAR, not E_PAD. -/
theorem test_decPad_too_many :
    after (exec .decPad (decWith 9 9 [0x54#8, 0x3D#8, 0x3D#8])) (fun t =>
      statusWord t == 0x007B#13 && t.k == 9#7 && t.outq == []) = true ∧
    after (exec .decPad (decWith 0 0 [0x3D#8, 0x3D#8, 0x21#8])) (fun t => statusWord t == 0x0433#13) = true := by decide

/-- V85: `TWF!`; and V88: of `T!W#` the first invalid character is reported. -/
theorem test_decInv_faults :
    after (exec (.decInv 0x21#8) (decWith 0 0 [0x54#8, 0x57#8, 0x46#8])) (fun t => statusWord t == 0x0433#13) = true ∧
    after (exec (.decInv 0x23#8) (decWith 0 0 [0x54#8, 0x21#8, 0x57#8])) (fun t => statusWord t == 0x0433#13) = true := by decide

/-- The example of R174: an invalid character that is not the fourth raises nothing. -/
theorem test_decInv_stored :
    after (exec (.decInv 0x21#8) (decWith 0 0 [])) (fun t => t == decWith 0 0 [0x21#8]) = true := by decide

/-- The example of R173, for each of the six rows. -/
theorem test_decWs_ignored :
    ∀ i ∈ [Instr.decWsHt, .decWsLf, .decWsVt, .decWsFf, .decWsCr, .decWsSp],
      after (exec i (decWith 0 0 [0x54#8, 0x57#8])) (fun t => t == decWith 0 0 [0x54#8, 0x57#8]) = true := by decide

/-- V81: `A!` then EOS is E_LEN with NCH = 2; on a block boundary the session ends. -/
theorem test_decEos :
    after (exec .decEos (decWith 0 0 [0x41#8, 0x21#8])) (fun t => statusWord t == 0x004B#13) = true ∧
    after (exec .decEos (decWith 3 4 [])) (fun t => statusWord t == 0x0004#13 && t.k == 3#7 && t.outq == []) = true := by decide

/-- An absent slot of QUAD, or a whitespace byte in it, is a fault of the model (R44, R176). -/
theorem test_decoder_model_faults :
    stopsWith (exec .decSym0 { decWith 0 0 [] with nch := 3#2 }) .absentSlot = true ∧
    stopsWith (exec .decSym0 (decWith 0 0 [0x20#8, 0x41#8, 0x41#8])) .whitespaceInQuad = true := by decide

/-! ### The step -/

/-- The instruction of a table word runs as the first one after reset. -/
theorem test_step_runs_fetched_command :
    after (step (State.reset.withFetchWord 13 0x1147)) (fun t => t == { State.reset with phase := .enc, k := 5#7, inc := 7#6 }) =
      true := by decide

theorem test_step_runs_fetched_beat :
    after (step (State.reset.withFetchWord 9 0x041)) (fun t => t == decWith 0 0 [0x41#8]) = true := by decide

/-- V110 and R219: a beat offered before its command is held, and the command is accepted first. -/
theorem test_step_holds_early_beat :
    after (step { State.reset with offers := [.word (.beat 0x041#9)] }) (fun t => t.offers == [.word (.beat 0x041#9)]) = true ∧
    after (step { State.reset with offers := [.word (.beat 0x041#9), .word (.cmd 0x1000#13)] }) (fun t =>
      t == { encWith 0 0 [] 0 with offers := [.word (.beat 0x041#9)] }) = true := by decide

/-- V115: OUT takes the head in phase FAULT and STATUS stays. -/
theorem test_step_out_in_fault :
    after (step { faulted with offers := [.out] }) (fun t =>
      t.taken == [0x4D#8] && t.outq == [0x61#8, 0x6E#8] && statusWord t == 0x0433#13) = true := by decide

/-- V113 and V116: RESET during a session, and out of a fault. -/
theorem test_step_reset :
    after (step { encWith 0 0 [0x4D#8, 0x61#8] 0 with offers := [.reset] }) (fun t => t == State.reset) = true ∧
    after (step { faulted with offers := [.reset] }) (fun t => t == State.reset) = true := by decide

/-- R255: RESET on its line wins over an offered beat, which stays offered. -/
theorem test_step_reset_line :
    after (step { encWith 0 0 [0x4D#8] 0 with resetLine := true, offers := [.word eosBeat] }) (fun t =>
      t == { State.reset with offers := [.word eosBeat] }) = true := by decide

/-- A whitespace byte without a row of the table is ignored like any other (R8, R173). -/
theorem test_step_ws_without_row :
    after (step { decWith 0 0 [0x54#8] with wsSet := [0x0A#8, 0x20#8, 0xA0#8], offers := [.word (.beat 0x0A0#9)] }) (fun t =>
      t == { decWith 0 0 [0x54#8] with wsSet := [0x0A#8, 0x20#8, 0xA0#8] }) = true := by decide

/-! ### Witnesses: encoding and arithmetic -/

/-- `DecodeOfEncodeIsIdentity`: a row that is well formed under the default set, and one only under the minimal set. -/
theorem witness_DecodeOfEncodeIsIdentity :
    (Instr.decWsHt).wellFormed Config.wsDefault = true ∧ (Instr.decInv 0x09#8).wellFormed [0x0A#8, 0x20#8] = true ∧
    (Instr.enc 63#6 63#6).wellFormed Config.wsDefault = true := by decide

/-- `EncodeOfDecodeIsIdentity`: a data beat, and an EOS beat with ignored bits. -/
theorem witness_EncodeOfDecodeIsIdentity :
    decode Config.wsDefault .dec (.beat 0x041#9) = .instr .decSym0 ∧ decode Config.wsDefault .enc (.beat 0x1FF#9) = .instr .encEos := by
  decide

/-- `DefaultClassTable`: a legal set under which HT changes its class. -/
theorem witness_DefaultClassTable :
    Config.wsLegal [0x0A#8, 0x20#8] = true ∧ classify [0x0A#8, 0x20#8] 0x09#8 ≠ classify Config.wsDefault 0x09#8 := by decide

/-- `ClassInvertsAlphabet`: a legal set, and both ends of each range. -/
theorem witness_ClassInvertsAlphabet :
    Config.wsLegal Config.wsDefault = true ∧ classify Config.wsDefault 0x41#8 = .sym 0#6 ∧ classify Config.wsDefault 0x5A#8 = .sym 25#6 ∧
    classify Config.wsDefault 0x61#8 = .sym 26#6 ∧ classify Config.wsDefault 0x7A#8 = .sym 51#6 ∧
    classify Config.wsDefault 0x30#8 = .sym 52#6 ∧ classify Config.wsDefault 0x39#8 = .sym 61#6 ∧
    classify Config.wsDefault 0x2B#8 = .sym 62#6 ∧ classify Config.wsDefault 0x2F#8 = .sym 63#6 := by decide

/-- `FlooredModulusIsUnique`: both ends of the range of the remainder, and a width of 7 bits. -/
theorem witness_FlooredModulusIsUnique :
    (63 ≤ 63 ∧ (64 : Int) ∣ (-1 : Int) - ((63 : Nat) : Int)) ∧ (0 ≤ 63 ∧ (64 : Int) ∣ (-128 : Int) - ((0 : Nat) : Int)) ∧
    7 ≤ 7 ∧ (0x7F#7).toInt = -1 := by decide

/-- `KeyScheduleClosedForm`: the largest keys (V22). -/
theorem witness_KeyScheduleClosedForm :
    (encWith 63 63 [] 0).k = (63#6).setWidth 7 ∧ (encWith 63 63 [] 0).inc = 63#6 := by decide

/-! ### Witnesses: commands and the encoder -/

/-- `EncCommandStartsSession` and `DecCommandStartsSession`: a phase for each clause. -/
theorem witness_commands : State.reset.phase = .idle ∧ faulted.phase ≠ .idle := by decide

/-- `InstructionsAreHeldInOtherPhases`: a beat in phase IDLE, a command in phase FAULT. -/
theorem witness_InstructionsAreHeldInOtherPhases :
    State.reset.phase ≠ Instr.encEos.phase ∧ faulted.phase ≠ (Instr.enc 0#6 0#6).phase := by decide

/-- `EncInStoresTheByte`: the first and the second byte. -/
theorem witness_EncInStoresTheByte :
    (encWith 0 0 [] 0).phase = .enc ∧ (encWith 0 0 [] 0).cnt = 0#2 ∧
    (encWith 0 0 [0x4D#8] 0).phase = .enc ∧ (encWith 0 0 [0x4D#8] 0).cnt = 1#2 := by decide

/-- `EncInCompletesTheBlock`: at the start of a line and at its last block. -/
theorem witness_EncInCompletesTheBlock :
    ∀ col ∈ [0, 72], (encWith 0 0 [0x4D#8, 0x61#8] col).phase = .enc ∧ (encWith 0 0 [0x4D#8, 0x61#8] col).cnt = 2#2 ∧
      (encWith 0 0 [0x4D#8, 0x61#8] col).buf.b0 = some 0x4D#8 ∧ (encWith 0 0 [0x4D#8, 0x61#8] col).buf.b1 = some 0x61#8 ∧
      4 ∣ (encWith 0 0 [0x4D#8, 0x61#8] col).col.toNat ∧ (encWith 0 0 [0x4D#8, 0x61#8] col).col.toNat ≤ 72 := by decide

/-- `EncEosClosesTheLine`: an empty line and a partly filled one. -/
theorem witness_EncEosClosesTheLine :
    ∀ col ∈ [0, 72], (encWith 0 0 [] col).phase = .enc ∧ (encWith 0 0 [] col).cnt = 0#2 ∧ (encWith 0 0 [] col).col = BitVec.ofNat 7 col := by
  decide

/-- `EncEosEmitsTheShortBlock`: one byte and two bytes, at the start of a line and at its last block. -/
theorem witness_EncEosEmitsTheShortBlock :
    ∀ col ∈ [0, 72],
      ((encWith 0 0 [0x4D#8] col).phase = .enc ∧ 4 ∣ (encWith 0 0 [0x4D#8] col).col.toNat ∧ (encWith 0 0 [0x4D#8] col).col.toNat ≤ 72 ∧
        (encWith 0 0 [0x4D#8] col).cnt = 1#2 ∧ (encWith 0 0 [0x4D#8] col).buf.b0 = some 0x4D#8) ∧
      ((encWith 0 0 [0x4D#8, 0x61#8] col).cnt = 2#2 ∧ (encWith 0 0 [0x4D#8, 0x61#8] col).buf.b0 = some 0x4D#8 ∧
        (encWith 0 0 [0x4D#8, 0x61#8] col).buf.b1 = some 0x61#8) := by decide

/-! ### Witnesses: the decoder -/

/-- `WhitespaceIsIgnored`: a whitespace byte with a row, one without, and a whitespace row. -/
theorem witness_WhitespaceIsIgnored :
    (decWith 0 0 []).phase = .dec ∧ 0x0A#8 ∈ (decWith 0 0 []).wsSet ∧
    0xA0#8 ∈ ({ decWith 0 0 [] with wsSet := [0x0A#8, 0x20#8, 0xA0#8] } : State).wsSet ∧
    Instr.decWsSp.char? = some (0x20#8, .ws) := by decide

/-- `SignificantCharacterIsStored`: a symbol, a marker and an invalid character, with NCH at 0, 1 and 2. -/
theorem witness_SignificantCharacterIsStored :
    Instr.decSym0.char? = some (0x41#8, .sym 0#6) ∧ Instr.decPad.char? = some (0x3D#8, .pad) ∧
    (Instr.decInv 0x21#8).char? = some (0x21#8, .inv) ∧ (decWith 0 0 []).phase = .dec ∧ (decWith 0 0 []).nch = 0#2 ∧
    (decWith 0 0 [0x41#8]).nch = 1#2 ∧ (decWith 0 0 [0x41#8, 0x3D#8]).nch = 2#2 := by decide

/-- The registers of a block of which three characters are in QUAD. -/
abbrev Waiting (s : State) (x y z : Byte) : Prop :=
  s.phase = .dec ∧ s.nch = 3#2 ∧ s.quad.c0 = some x ∧ s.quad.c1 = some y ∧ s.quad.c2 = some z ∧
    s.pad.toNat = [x, y, z].count padChar

/-- `GoodBlockIsDecoded`: no marker, and two. -/
theorem witness_GoodBlockIsDecoded :
    (Instr.decSym46.char? = some (0x75#8, .sym 46#6) ∧ Waiting (decWith 0 0 [0x54#8, 0x57#8, 0x46#8]) 0x54#8 0x57#8 0x46#8 ∧
      (∀ d ∈ [0x54#8, 0x57#8, 0x46#8, 0x75#8], d ∉ Config.wsDefault ∧ (d = padChar ∨ (symIndex d).isSome = true)) ∧
      markerCount { c0 := 0x54#8, c1 := 0x57#8, c2 := 0x46#8, c3 := 0x75#8 } = 0) ∧
    (Instr.decPad.char? = some (0x3D#8, .pad) ∧ Waiting (decWith 0 0 [0x54#8, 0x51#8, 0x3D#8]) 0x54#8 0x51#8 0x3D#8 ∧
      (∀ d ∈ [0x54#8, 0x51#8, 0x3D#8, 0x3D#8], d ∉ Config.wsDefault ∧ (d = padChar ∨ (symIndex d).isSome = true)) ∧
      markerCount { c0 := 0x54#8, c1 := 0x51#8, c2 := 0x3D#8, c3 := 0x3D#8 } = 2) := by decide

/-- `InvalidCharacterFaults`: the invalid character in the first position and in the last. -/
theorem witness_InvalidCharacterFaults :
    (Waiting (decWith 9 9 [0x21#8, 0x41#8, 0x41#8]) 0x21#8 0x41#8 0x41#8 ∧ Instr.decSym0.char? = some (0x41#8, .sym 0#6) ∧
      [0x21#8, 0x41#8, 0x41#8, 0x41#8] = [] ++ 0x21#8 :: [0x41#8, 0x41#8, 0x41#8] ∧ classify Config.wsDefault 0x21#8 = .inv) ∧
    (Waiting (decWith 9 9 [0x41#8, 0x41#8, 0x41#8]) 0x41#8 0x41#8 0x41#8 ∧
      (Instr.decInv 0x21#8).char? = some (0x21#8, .inv) ∧
      [0x41#8, 0x41#8, 0x41#8, 0x21#8] = [0x41#8, 0x41#8, 0x41#8] ++ 0x21#8 :: [] ∧
      ∀ e ∈ [0x41#8, 0x41#8, 0x41#8], classify Config.wsDefault e ≠ .inv) := by decide

/-- `TooManyMarkersFault`: three markers, and four. -/
theorem witness_TooManyMarkersFault :
    (Waiting (decWith 0 0 [0x54#8, 0x3D#8, 0x3D#8]) 0x54#8 0x3D#8 0x3D#8 ∧ Instr.decPad.char? = some (0x3D#8, .pad) ∧
      (∀ d ∈ [0x54#8, 0x3D#8, 0x3D#8, 0x3D#8], d ∉ Config.wsDefault ∧ (d = padChar ∨ (symIndex d).isSome = true)) ∧
      markerCount { c0 := 0x54#8, c1 := 0x3D#8, c2 := 0x3D#8, c3 := 0x3D#8 } = 3) ∧
    (Waiting (decWith 0 0 [0x3D#8, 0x3D#8, 0x3D#8]) 0x3D#8 0x3D#8 0x3D#8 ∧
      markerCount { c0 := 0x3D#8, c1 := 0x3D#8, c2 := 0x3D#8, c3 := 0x3D#8 } = 4) := by decide

/-- `DecEosEndsOrFaults`: NCH = 0, 1 and 3, another phase, and an EOS beat with data bits. -/
theorem witness_DecEosEndsOrFaults :
    (decWith 0 0 []).phase = .dec ∧ (decWith 0 0 []).nch = 0#2 ∧ (decWith 0 0 [0x41#8]).nch ≠ 0#2 ∧
    (decWith 0 0 [0x41#8, 0x41#8, 0x41#8]).nch = 3#2 ∧ faulted.phase ≠ .dec ∧ beatEos 0x1FF#9 = true := by decide

/-! ### Witnesses: the step -/

/-- `StepRunsTheDecodedInstruction`, `HeldEventsStayOffered`: a command held in front of an accepted beat. -/
theorem witness_StepRunsTheDecodedInstruction :
    let s : State := { encWith 0 0 [] 0 with offers := [.word (.cmd 0x0000#13)] ++ .word (dataBeat 0x4D#8) :: [.out] }
    s.resetLine = false ∧ (∀ o ∈ [Offer.word (.cmd 0x0000#13)], accepts s o = false) ∧
      decode s.wsSet s.phase (dataBeat 0x4D#8) = .instr (.encIn 0x4D#8) ∧ accepts s (.word (dataBeat 0x4D#8)) = true := by decide

/-- `HeldEventsStayOffered`, second clause: every offered event is held. -/
theorem witness_HeldEventsStayOffered :
    let s : State := { State.reset with offers := [.out, .word eosBeat] }
    s.resetLine = false ∧ ∀ o ∈ s.offers, accepts s o = false := by decide

/-- `ResetWinsOverEveryEvent`. -/
theorem witness_ResetWinsOverEveryEvent :
    ({ encWith 0 0 [0x4D#8] 0 with resetLine := true, offers := [.word eosBeat] } : State).resetLine = true := rfl

/-- `ResetIsAcceptedInEveryPhase`: behind a held command, in the phases ENC, DEC and FAULT. -/
theorem witness_ResetIsAcceptedInEveryPhase :
    ∀ u ∈ [encWith 0 0 [0x4D#8] 0, decWith 0 0 [0x41#8], faulted],
      let s : State := { u with offers := [.word (.cmd 0x0000#13)] ++ .reset :: [.out] }
      s.resetLine = false ∧ ∀ o ∈ [Offer.word (.cmd 0x0000#13)], accepts s o = false := by decide

/-- `OutTakesTheHead`: in phase FAULT, behind a held beat; and an empty queue. -/
theorem witness_OutTakesTheHead :
    let s : State := { faulted with offers := [.word eosBeat] ++ .out :: [] }
    s.resetLine = false ∧ (∀ o ∈ [Offer.word eosBeat], accepts s o = false) ∧ s.outq = 0x4D#8 :: [0x61#8, 0x6E#8] ∧
      State.reset.outq = [] := by decide

/-- `OutCommutesWithEveryWord`: an EOS that emits while a byte waits. -/
theorem witness_OutCommutesWithEveryWord :
    let s : State := { encWith 0 0 [0x4D#8] 0 with outq := [0x41#8] }
    s.outq ≠ [] ∧ after (runWord eosBeat s) (fun t => t.outq == [0x41#8, 0x54#8, 0x51#8, 0x3D#8, 0x3D#8, 0x0A#8]) = true := by decide

/-! ### Witnesses: invariants -/

/-- An encode session before its EOS, at the last block of a line with one byte waiting. -/
def ending : State := { encWith 126 63 [0x4D#8] 72 with offers := [.word eosBeat] }

/-- A decode session inside a block, with a marker and an invalid character waiting, before the character that completes it. -/
def completing : State := { decWith 126 63 [0x3D#8, 0x21#8, 0x41#8] with offers := [.word (dataBeat 0x41#8)] }

theorem inv_ending : Inv ending where
  ws := wsDefault_legal
  status := ⟨fun h => (nomatch h), fun _ => ⟨rfl, rfl⟩, fun h => (nomatch h)⟩
  enc _ := ⟨by decide, by decide, by decide, by decide, by unfold BufFilled; decide⟩
  dec h := nomatch h

theorem inv_completing : Inv completing where
  ws := wsDefault_legal
  status := ⟨fun h => (nomatch h), fun _ => ⟨rfl, rfl⟩, fun h => (nomatch h)⟩
  enc h := nomatch h
  dec _ :=
    ⟨by decide, by unfold QuadFilled; decide, by decide, fun c hc => by
      have hm : c ∈ [0x3D#8, 0x21#8, 0x41#8] := by
        simpa [completing, decWith, quadSlots] using hc
      revert c
      decide⟩

/-- The fault of R280 satisfies the invariant. -/
theorem inv_faulted : Inv faulted where
  ws := wsDefault_legal
  status := ⟨fun h => (nomatch h), fun h => absurd rfl h, fun _ => .inr (.inl ⟨rfl, by decide⟩)⟩
  enc h := nomatch h
  dec h := nomatch h

/-- `StepKeepsTheInvariant`, `RunsNeverStop`: a step that emits a short block and ends the session. -/
theorem witness_StepKeepsTheInvariant :
    Inv ending ∧ step ending = .next (endOf 1 ending) ∧ (endOf 1 ending).done = true := ⟨inv_ending, rfl, rfl⟩

/-- The same for a block that faults. -/
theorem witness_StepKeepsTheInvariant_fault :
    Inv completing ∧ step completing = .next (endOf 1 completing) ∧ (endOf 1 completing).phase = .fault := ⟨inv_completing, rfl, rfl⟩

/-- `StepKeepsTheWhitespaceSet`, `OutputIsAppendOnly`: a step that takes a byte, and one that emits. -/
theorem witness_OutputIsAppendOnly :
    step { faulted with offers := [.out] } = .next (endOf 1 { faulted with offers := [.out] }) ∧
    step { encWith 0 0 [0x4D#8] 0 with offers := [.word eosBeat] } =
      .next (endOf 1 { encWith 0 0 [0x4D#8] 0 with offers := [.word eosBeat] }) := ⟨rfl, rfl⟩

/-- `FaultIsLeftOnlyByReset`: a step that keeps the fault, and one that leaves it. -/
theorem witness_FaultIsLeftOnlyByReset :
    faulted.phase = .fault ∧ step { faulted with offers := [.out] } = .next (endOf 1 { faulted with offers := [.out] }) ∧
    step { faulted with offers := [.reset] } = .next (endOf 1 { faulted with offers := [.reset] }) := ⟨rfl, rfl, rfl⟩

/-- `PhaseTransitionsAreThoseListed`: a command, an EOS, a fault and a stored byte. -/
theorem witness_PhaseTransitionsAreThoseListed :
    ∀ p ∈ [({ State.reset with offers := [.word (.cmd 0x1000#13)] }, Phase.enc), ({ encWith 0 0 [] 0 with offers := [.word eosBeat] }, .idle),
      ({ decWith 0 0 [0x41#8] with offers := [.word eosBeat] }, .fault), ({ encWith 0 0 [] 0 with offers := [.word (dataBeat 0x41#8)] }, .enc)],
      p.1.resetLine = false ∧ after (step p.1) (fun t => t.phase == p.2) = true ∧
        (nextOffer p.1).map (fun x => x.1 == Offer.reset) = some false := by decide

/-- `EncoderIgnoresDecoderRegisters` and `DecoderIgnoresEncoderRegisters`: an instruction of each phase that runs. -/
theorem witness_IgnoredRegisters :
    Instr.encEos.phase = .enc ∧ after (exec .encEos (encWith 0 0 [0x4D#8] 0)) (fun t => t.done) = true ∧
    Instr.decPad.phase = .dec ∧ after (exec .decPad (decWith 5 7 [0x66#8, 0x53#8, 0x33#8])) (fun t => t.outq == [0x68#8, 0x69#8]) = true := by
  decide

/-! ### Witnesses: sessions -/

/-- `EncodeSessionIsTheFunction`, `EmptyInputEmitsNothing`: a core to which a session is offered. -/
theorem witness_EncodeSessionIsTheFunction :
    ReadyFor (offering (cmdWord true 63#6 63#6) [0x00#8]) (sessionOffers (cmdWord true 63#6 63#6) [0x00#8]) ∧
    ReadyFor (offering (cmdWord true 9#6 9#6) []) (sessionOffers (cmdWord true 9#6 9#6) []) := ⟨⟨rfl, rfl, rfl⟩, rfl, rfl, rfl⟩

/-- `DecodeSessionIsTheFunction`: a session that ends in a fault (V80), under the minimal set. -/
theorem witness_DecodeSessionIsTheFunction :
    ReadyFor { offering (cmdWord false 0#6 0#6) [0x41#8] with wsSet := [0x0A#8, 0x20#8] } (sessionOffers (cmdWord false 0#6 0#6) [0x41#8]) :=
  ⟨rfl, rfl, rfl⟩

/-- The encode session of V32 (one byte, keys 63 and 63), of V33 (two bytes, keys 5 and 7), of three bytes and of none: the hypotheses
of `LineWrapping`, `FinalNewline` and `AlphabetClosureAndPadding`, one for each remainder of the length. -/
theorem witness_EncodeRun_one :
    EncodeRun (offering (cmdWord true 63#6 63#6) [0x00#8]) [0x00#8] 63#6 63#6 (endOf 3 (offering (cmdWord true 63#6 63#6) [0x00#8])) ∧
    (endOf 3 (offering (cmdWord true 63#6 63#6) [0x00#8])).outq = [] ++ [0x2F#8, 0x2B#8, 0x3D#8, 0x3D#8, 0x0A#8] :=
  ⟨⟨⟨rfl, rfl, rfl⟩, rfl⟩, by decide⟩

theorem witness_EncodeRun_two :
    EncodeRun (offering (cmdWord true 5#6 7#6) [0x68#8, 0x69#8]) [0x68#8, 0x69#8] 5#6 7#6
      (endOf 4 (offering (cmdWord true 5#6 7#6) [0x68#8, 0x69#8])) ∧
    (endOf 4 (offering (cmdWord true 5#6 7#6) [0x68#8, 0x69#8])).outq = [] ++ [0x66#8, 0x53#8, 0x33#8, 0x3D#8, 0x0A#8] :=
  ⟨⟨⟨rfl, rfl, rfl⟩, rfl⟩, by decide⟩

theorem witness_EncodeRun_three :
    EncodeRun (offering (cmdWord true 0#6 0#6) [0x4D#8, 0x61#8, 0x6E#8]) [0x4D#8, 0x61#8, 0x6E#8] 0#6 0#6
      (endOf 5 (offering (cmdWord true 0#6 0#6) [0x4D#8, 0x61#8, 0x6E#8])) ∧
    (endOf 5 (offering (cmdWord true 0#6 0#6) [0x4D#8, 0x61#8, 0x6E#8])).outq = [] ++ [0x54#8, 0x57#8, 0x46#8, 0x75#8, 0x0A#8] :=
  ⟨⟨⟨rfl, rfl, rfl⟩, rfl⟩, by decide⟩

theorem witness_EncodeRun_none :
    EncodeRun (offering (cmdWord true 9#6 9#6) []) [] 9#6 9#6 (endOf 2 (offering (cmdWord true 9#6 9#6) [])) ∧
    (endOf 2 (offering (cmdWord true 9#6 9#6) [])).outq = [] ++ [] := ⟨⟨⟨rfl, rfl, rfl⟩, rfl⟩, by decide⟩

/-- `RoundTrip`, `WrongKeysEndNormally` (keys 1, 0, V79c) and `KeyEffect` (with `witness_EncodeRun_three`): a decode session of the
output of `witness_EncodeRun_three`. -/
theorem witness_RoundTrip :
    Config.wsLegal (offering (cmdWord false 0#6 0#6) [0x54#8, 0x57#8, 0x46#8, 0x75#8, 0x0A#8]).wsSet = true ∧
    DecodeRun (offering (cmdWord false 0#6 0#6) [0x54#8, 0x57#8, 0x46#8, 0x75#8, 0x0A#8]) [0x54#8, 0x57#8, 0x46#8, 0x75#8, 0x0A#8] 0#6 0#6
      (endOf 7 (offering (cmdWord false 0#6 0#6) [0x54#8, 0x57#8, 0x46#8, 0x75#8, 0x0A#8])) :=
  ⟨by decide, ⟨rfl, rfl, rfl⟩, rfl⟩

theorem witness_WrongKeysEndNormally :
    DecodeRun (offering (cmdWord false 1#6 0#6) [0x54#8, 0x57#8, 0x46#8, 0x75#8, 0x0A#8]) [0x54#8, 0x57#8, 0x46#8, 0x75#8, 0x0A#8] 1#6 0#6
      (endOf 7 (offering (cmdWord false 1#6 0#6) [0x54#8, 0x57#8, 0x46#8, 0x75#8, 0x0A#8])) ∧
    (endOf 7 (offering (cmdWord false 1#6 0#6) [0x54#8, 0x57#8, 0x46#8, 0x75#8, 0x0A#8])).outq = [0x49#8, 0x51#8, 0x2D#8] :=
  ⟨⟨⟨rfl, rfl, rfl⟩, rfl⟩, by decide⟩

/-- `KeyEffect`: the session of `witness_EncodeRun_three` under keys that differ in the increment only (V9). -/
theorem witness_KeyEffect :
    EncodeRun (offering (cmdWord true 0#6 1#6) [0x4D#8, 0x61#8, 0x6E#8]) [0x4D#8, 0x61#8, 0x6E#8] 0#6 1#6
      (endOf 5 (offering (cmdWord true 0#6 1#6) [0x4D#8, 0x61#8, 0x6E#8])) ∧
    (endOf 5 (offering (cmdWord true 0#6 1#6) [0x4D#8, 0x61#8, 0x6E#8])).outq = [] ++ [0x54#8, 0x58#8, 0x48#8, 0x78#8, 0x0A#8] ∧
    (0#6, 0#6) ≠ (0#6, 1#6) := ⟨⟨⟨rfl, rfl, rfl⟩, rfl⟩, by decide, by decide⟩

/-- `WhitespaceTolerance`, `SessionsAreIndependent`: `A` and ` A`, which both fault at EOS with E_LEN. -/
theorem witness_WhitespaceTolerance :
    [0x41#8].filter (fun c => c ∉ Config.wsDefault) = [0x20#8, 0x41#8].filter (fun c => c ∉ Config.wsDefault) ∧
    DecodeRun (offering (cmdWord false 0#6 0#6) [0x41#8]) [0x41#8] 0#6 0#6 (endOf 3 (offering (cmdWord false 0#6 0#6) [0x41#8])) ∧
    DecodeRun (offering (cmdWord false 0#6 0#6) [0x20#8, 0x41#8]) [0x20#8, 0x41#8] 0#6 0#6
      (endOf 4 (offering (cmdWord false 0#6 0#6) [0x20#8, 0x41#8])) ∧
    (endOf 3 (offering (cmdWord false 0#6 0#6) [0x41#8])).outq = [] ++ [] ∧
    (endOf 4 (offering (cmdWord false 0#6 0#6) [0x20#8, 0x41#8])).outq = [] ++ [] :=
  ⟨by decide, ⟨⟨rfl, rfl, rfl⟩, rfl⟩, ⟨⟨rfl, rfl, rfl⟩, rfl⟩, by decide, by decide⟩

end Sys2Proof.Tests
end

/-! PROOFS. A session does not read what stands in the core before it (R43). A session from any state is the session from one
fixed start state, set onto the background that the state brings: the bytes already in OUTQ, the bytes the host has taken, and
`WS_SET`. Every instruction commutes with that change of background, and so does every step of a session. -/

namespace Sys2Proof.Machine

open Sys2Proof.Safety

/-! ### A state on a background -/

/-- What a session finds in the core and only adds to or leaves alone. -/
structure Background where
  /-- the bytes that stand in OUTQ before the session -/
  outq : List Byte
  /-- the bytes the host has taken -/
  taken : List Byte
  /-- `WS_SET` -/
  wsSet : WsSet

/-- The background that a state brings to a session. -/
def State.background (s : State) : Background := { outq := s.outq, taken := s.taken, wsSet := s.wsSet }

/-- The state `s` with its output behind that of `g`, and with the taken bytes and the `WS_SET` of `g`. -/
def onto (g : Background) (s : State) : State := { s with outq := g.outq ++ s.outq, taken := g.taken, wsSet := g.wsSet }

/-- Change the next state of an outcome, if it has one. -/
def mapNext (f : State → State) : Result → Result
  | .next s => .next (f s)
  | .fault r => .fault r
  | .refused r => .refused r

@[simp] theorem mapNext_next (f : State → State) (s : State) : mapNext f (.next s) = .next (f s) := rfl

@[simp] theorem mapNext_fault (f : State → State) (r : Fault) : mapNext f (.fault r) = .fault r := rfl

theorem mapNext_eq_next {f : State → State} {r : Result} {t : State} (h : mapNext f r = .next t) :
    ∃ v, r = .next v ∧ t = f v := by
  cases r with
  | next v =>
    injection h with h
    exact ⟨v, rfl, h.symm⟩
  | fault r => cases h
  | refused r => cases h

@[simp] theorem onto_phase (g : Background) (s : State) : (onto g s).phase = s.phase := rfl
@[simp] theorem onto_cnt (g : Background) (s : State) : (onto g s).cnt = s.cnt := rfl
@[simp] theorem onto_quad (g : Background) (s : State) : (onto g s).quad = s.quad := rfl
@[simp] theorem onto_pad (g : Background) (s : State) : (onto g s).pad = s.pad := rfl
@[simp] theorem onto_wsSet (g : Background) (s : State) : (onto g s).wsSet = g.wsSet := rfl

theorem statusWord_onto (g : Background) (s : State) : statusWord (onto g s) = statusWord s := rfl

/-! ### The operations on a background -/

theorem inPhase_onto {p : Phase} {g : Background} {s : State} {f : State → Result}
    (h : s.phase = p → f (onto g s) = mapNext (onto g) (f s)) :
    inPhase p (onto g s) f = mapNext (onto g) (inPhase p s f) := by
  by_cases hp : s.phase = p
  · rw [inPhase_of_eq hp, inPhase_of_eq (s := onto g s) hp, h hp]
  · rw [inPhase_of_ne hp, inPhase_of_ne (s := onto g s) hp, mapNext_next]

theorem emit_onto (b : Byte) (g : Background) (s : State) : emit b (onto g s) = onto g (emit b s) := by
  simp [emit, onto]

theorem emitChar_onto (c : Byte) (g : Background) (s : State) : emitChar c (onto g s) = onto g (emitChar c s) := by
  simp only [emitChar, emit_onto, apply_ite (onto g)]
  rfl

theorem encodeBlock_onto (n : Nat) (g : Background) (s : State) :
    encodeBlock n (onto g s) = mapNext (onto g) (encodeBlock n s) := by
  cases hc : chunkBytes n s.buf with
  | none => rw [encodeBlock_of_absent hc, encodeBlock_of_absent (s := onto g s) hc, mapNext_fault]
  | some r =>
    rw [encodeBlock_of_chunk hc, encodeBlock_of_chunk (s := onto g s) hc, mapNext_next]
    have hk : ∀ k : BitVec 7, { onto g s with k := k } = onto g { s with k := k } := fun _ => rfl
    simp only [hk, emitChar_onto]
    rfl

theorem storeRaw_onto (b : Byte) (g : Background) (s : State) :
    storeRaw b (onto g s) = mapNext (onto g) (storeRaw b s) := by
  simp only [storeRaw_eq, apply_ite (mapNext (onto g)), ← encodeBlock_onto]
  rfl

theorem closeLine_onto (g : Background) (s : State) : closeLine (onto g s) = onto g (closeLine s) := by
  simp [closeLine_eq, onto]

theorem finishEncode_onto (g : Background) (s : State) :
    finishEncode (onto g s) = mapNext (onto g) (finishEncode s) := by
  by_cases h : s.cnt = 0#2
  · simp [finishEncode, h, closeLine_onto]
  · simp only [finishEncode, onto_cnt, if_neg h, encodeBlock_onto]
    cases encodeBlock s.cnt.toNat s with
    | next t => simp [closeLine_onto]
    | fault r => rfl
    | refused r => rfl

theorem decodeGoodBlock_onto (v : SymBlock) (g : Background) (s : State) :
    decodeGoodBlock v (onto g s) = onto g (decodeGoodBlock v s) := by
  simp [decodeGoodBlock_eq, onto]

/-- The decoder reads `WS_SET` where it looks up the four characters of a block (R177). -/
theorem decodeBlock_onto {g : Background} {s : State} (hw : s.wsSet = g.wsSet) :
    decodeBlock (onto g s) = mapNext (onto g) (decodeBlock s) := by
  simp only [decodeBlock, onto_quad, onto_wsSet, onto_pad, hw]
  cases s.quad.chars with
  | none => rfl
  | some q =>
    dsimp only
    cases blockValues g.wsSet q with
    | none => dsimp only; cases firstInvalid g.wsSet q <;> rfl
    | some v =>
      simp only [decodeGoodBlock_onto, apply_ite (mapNext (onto g))]
      rfl

theorem storeChar_onto (c : Byte) {g : Background} {s : State} (hw : s.wsSet = g.wsSet) :
    storeChar c (onto g s) = mapNext (onto g) (storeChar c s) := by
  simp only [storeChar_eq, apply_ite (mapNext (onto g)), ← decodeBlock_onto (s := collect c s) hw]
  rfl

theorem finishDecode_onto (g : Background) (s : State) :
    finishDecode (onto g s) = mapNext (onto g) (finishDecode s) := by
  simp only [finishDecode, apply_ite (mapNext (onto g))]
  rfl

/-- Every instruction commutes with a change of background that keeps `WS_SET` where the core decodes. -/
theorem exec_onto (i : Instr) {g : Background} {s : State} (hw : s.phase = .dec → s.wsSet = g.wsSet) :
    exec i (onto g s) = mapNext (onto g) (exec i s) := by
  rcases instr_cases i with ⟨kb, ki, rfl⟩ | ⟨kb, ki, rfl⟩ | ⟨b, rfl⟩ | rfl | rfl | ⟨-, c, k, hi⟩
  · exact inPhase_onto (f := fun s => .next { sessionInit kb ki s with phase := .enc }) fun _ => rfl
  · exact inPhase_onto (f := fun s => .next { sessionInit kb ki s with phase := .dec }) fun _ => rfl
  · exact inPhase_onto fun _ => storeRaw_onto b g s
  · exact inPhase_onto fun _ => finishEncode_onto g s
  · exact inPhase_onto fun _ => finishDecode_onto g s
  · rw [exec_of_char hi, exec_of_char hi]
    split
    · rfl
    · exact inPhase_onto fun hp => storeChar_onto c (hw hp)

/-! ### What a beat leaves alone -/

/-- The host's side of the ports and `WS_SET` are as they were, and the core does not decode unless it did before. -/
structure KeepsPorts (s t : State) : Prop where
  /-- `WS_SET` is as it was -/
  wsSet : t.wsSet = s.wsSet
  /-- the RESET line is as it was -/
  resetLine : t.resetLine = s.resetLine
  /-- the offered events are as they were -/
  offers : t.offers = s.offers
  /-- no decode session starts -/
  dec : t.phase = .dec → s.phase = .dec

theorem KeepsPorts.refl (s : State) : KeepsPorts s s := ⟨rfl, rfl, rfl, id⟩

theorem encodeBlock_keepsPorts {n : Nat} {s t : State} (h : encodeBlock n s = .next t) : KeepsPorts s t := by
  obtain ⟨_, _, _, _, rfl⟩ := encodeBlock_next h
  exact ⟨rfl, rfl, rfl, id⟩

theorem storeRaw_keepsPorts {b : Byte} {s t : State} (h : storeRaw b s = .next t) : KeepsPorts s t := by
  rcases storeRaw_next h with ⟨-, rfl⟩ | ⟨-, rfl⟩ | ⟨-, h⟩
  · exact ⟨rfl, rfl, rfl, id⟩
  · exact ⟨rfl, rfl, rfl, id⟩
  · obtain ⟨hw, hr, ho, hd⟩ := encodeBlock_keepsPorts h
    exact ⟨hw, hr, ho, hd⟩

theorem closeLine_keepsPorts (s : State) : KeepsPorts s (closeLine s) := ⟨by simp, by simp, by simp, by simp⟩

theorem finishEncode_keepsPorts {s t : State} (h : finishEncode s = .next t) : KeepsPorts s t := by
  rcases finishEncode_next h with ⟨-, rfl⟩ | ⟨-, u, hu, rfl⟩
  · exact closeLine_keepsPorts s
  · obtain ⟨hw, hr, ho, -⟩ := encodeBlock_keepsPorts hu
    exact ⟨by simpa using hw, by simpa using hr, by simpa using ho, by simp⟩

theorem decodeBlock_keepsPorts {s t : State} (h : decodeBlock s = .next t) : KeepsPorts s t := by
  obtain ⟨q, -, ⟨c, -, -, rfl⟩ | ⟨v, -, -, rfl⟩ | ⟨v, -, -, rfl⟩⟩ := decodeBlock_next h
  · exact ⟨rfl, rfl, rfl, by simp⟩
  · exact ⟨rfl, rfl, rfl, by simp⟩
  · rw [decodeGoodBlock_eq]
    exact ⟨rfl, rfl, rfl, id⟩

theorem storeChar_keepsPorts {c : Byte} {s t : State} (h : storeChar c s = .next t) : KeepsPorts s t := by
  rw [storeChar_eq] at h
  split at h
  · obtain ⟨hw, hr, ho, hd⟩ := decodeBlock_keepsPorts h
    exact ⟨hw, hr, ho, hd⟩
  · injection h with h
    subst h
    exact ⟨rfl, rfl, rfl, id⟩

theorem finishDecode_keepsPorts {s t : State} (h : finishDecode s = .next t) : KeepsPorts s t := by
  unfold finishDecode at h
  split at h <;> injection h with h <;> subst h
  · exact ⟨rfl, rfl, rfl, by simp⟩
  · exact ⟨rfl, rfl, rfl, by simp⟩

theorem inPhase_keepsPorts {p : Phase} {s t : State} {f : State → Result} (hf : f s = .next t → KeepsPorts s t)
    (h : inPhase p s f = .next t) : KeepsPorts s t := by
  rcases inPhase_cases h with ⟨-, h⟩ | ⟨-, h⟩
  · exact hf h
  · injection h with h
    exact h ▸ KeepsPorts.refl s

/-- Every instruction but the command DEC keeps the ports and starts no decode session. -/
theorem exec_keepsPorts {i : Instr} {s t : State} (hi : ∀ kb ki, i ≠ .dec kb ki) (h : exec i s = .next t) :
    KeepsPorts s t := by
  rcases instr_cases i with ⟨kb, ki, rfl⟩ | ⟨kb, ki, rfl⟩ | ⟨b, rfl⟩ | rfl | rfl | ⟨-, c, k, hc⟩
  · refine inPhase_keepsPorts (f := fun s => .next { sessionInit kb ki s with phase := .enc }) (fun h => ?_) h
    injection h with h
    subst h
    exact ⟨rfl, rfl, rfl, by simp⟩
  · exact absurd rfl (hi kb ki)
  · exact inPhase_keepsPorts storeRaw_keepsPorts h
  · exact inPhase_keepsPorts finishEncode_keepsPorts h
  · exact inPhase_keepsPorts finishDecode_keepsPorts h
  · rw [exec_of_char hc] at h
    split at h
    · injection h with h
      exact h ▸ KeepsPorts.refl s
    · exact inPhase_keepsPorts storeChar_keepsPorts h

/-! ### The beats of a session -/

/-- In the phase that a beat meets, only phase DEC reads `WS_SET` to decode it. -/
theorem decode_beat_congr {ws ws' : WsSet} {ph : Phase} (w : BeatWord) (hw : ph = .dec → ws = ws') :
    decode ws ph (.beat w) = decode ws' ph (.beat w) := by
  cases ph with
  | dec => rw [hw rfl]
  | idle => rfl
  | enc => rfl
  | fault => rfl

theorem wsInstr?_char {c : Byte} {i : Instr} (h : wsInstr? c = some i) : i.char? = some (c, .ws) := by
  unfold wsInstr? at h
  split_ifs at h with hc hc hc hc hc hc <;> injection h with h <;> subst h <;> rw [hc] <;> rfl

/-- Whatever a byte decodes to in phase DEC is a row of sub-format CHAR. -/
theorem decodeChar_char {ws : WsSet} {c : Byte} {i : Instr} (h : decodeChar ws c = .instr i) :
    ∃ k, i.char? = some (c, k) := by
  by_cases hc : c ∈ ws
  · simp only [decodeChar, classify_of_mem hc] at h
    split at h
    · rename_i j hj
      injection h with h
      exact ⟨.ws, h ▸ wsInstr?_char hj⟩
    · cases h
  · obtain ⟨j, k, hd, hj, -⟩ := decodeChar_of_not_mem hc
    injection hd.symm.trans h with hij
    exact ⟨k, hij ▸ hj⟩

/-- A beat decodes to no command DEC. -/
theorem decode_beat_ne_dec (ws : WsSet) (ph : Phase) (w : BeatWord) (kb ki : Sextet) :
    decode ws ph (.beat w) ≠ .instr (.dec kb ki) := by
  intro h
  change decodeBeat ws ph w = _ at h
  cases ph with
  | idle => cases h
  | fault => cases h
  | enc =>
    simp only [decodeBeat] at h
    split at h <;> cases h
  | dec =>
    simp only [decodeBeat] at h
    split at h
    · cases h
    · obtain ⟨k, hk⟩ := decodeChar_char h
      cases hk

theorem runWord_beat_onto (w : BeatWord) {g : Background} {s : State} (hw : s.phase = .dec → s.wsSet = g.wsSet) :
    runWord (.beat w) (onto g s) = mapNext (onto g) (runWord (.beat w) s) := by
  simp only [runWord, onto_wsSet, onto_phase, ← decode_beat_congr w hw, skipWhitespace_eq]
  split
  · exact exec_onto _ hw
  · rfl
  · rfl

theorem runWord_beat_keepsPorts {w : BeatWord} {s t : State} (h : runWord (.beat w) s = .next t) : KeepsPorts s t := by
  simp only [runWord, skipWhitespace_eq] at h
  split at h
  · rename_i i hd
    exact exec_keepsPorts (fun kb ki hi => decode_beat_ne_dec _ _ w kb ki (hi ▸ hd)) h
  · injection h with h
    exact h ▸ KeepsPorts.refl s
  · injection h with h
    exact h ▸ KeepsPorts.refl s

/-! ### The steps of a session -/

/-- A core inside a session: RESET is not asserted, beats alone are offered, and where the core decodes its `WS_SET` is that of
the background. -/
structure InSession (g : Background) (s : State) : Prop where
  /-- RESET is not asserted -/
  noReset : s.resetLine = false
  /-- the host offers beats only -/
  beats : ∀ o ∈ s.offers, ∃ w, o = .word (.beat w)
  /-- the decoder's `WS_SET` is the background's -/
  wsSet : s.phase = .dec → s.wsSet = g.wsSet

/-- The step where RESET is not asserted and an offered event is accepted. -/
theorem step_of_nextOffer {s : State} {o : Offer} {rest : List Offer} (hr : s.resetLine = false)
    (hn : nextOffer s = some (o, rest)) : step s = runOffer o { s with offers := rest } := by
  simp [step, hr, hn]

/-- The step where RESET is not asserted and no offered event is accepted. -/
theorem step_of_none {s : State} (hr : s.resetLine = false) (hn : nextOffer s = none) : step s = .next s := by
  simp [step, hr, hn]

theorem takeFirst_congr {α : Type} {p q : α → Bool} {l : List α} (h : ∀ x ∈ l, p x = q x) :
    takeFirst p l = takeFirst q l := by
  induction l with
  | nil => rfl
  | cons x l ih =>
    rw [takeFirst, takeFirst, h x (List.mem_cons_self ..), ih fun y hy => h y (List.mem_cons_of_mem _ hy)]

/-- The choice among beats does not look at the output queue. -/
theorem nextOffer_onto {g : Background} {s : State} (h : InSession g s) : nextOffer (onto g s) = nextOffer s := by
  refine takeFirst_congr fun o ho => ?_
  obtain ⟨w, rfl⟩ := h.beats o ho
  rfl

/-- Everything a step inside a session can do: nothing where no beat is accepted, or the effect of one offered beat, with the
core still inside the session. -/
theorem InSession.step_cases {g : Background} {s : State} (h : InSession g s) :
    (nextOffer s = none ∧ step s = .next s) ∨
    ∃ w rest, nextOffer s = some (.word (.beat w), rest) ∧ InSession g { s with offers := rest } ∧
      step s = runWord (.beat w) { s with offers := rest } := by
  cases hn : nextOffer s with
  | none => exact .inl ⟨rfl, step_of_none h.noReset hn⟩
  | some x =>
    obtain ⟨o, rest⟩ := x
    obtain ⟨pre, post, hoff, hrest, -, -⟩ := takeFirst_eq_some hn
    obtain ⟨w, rfl⟩ := h.beats o (by simp [hoff])
    refine .inr ⟨w, rest, rfl, ⟨h.noReset, fun o ho => h.beats o ?_, h.wsSet⟩, step_of_nextOffer h.noReset hn⟩
    have ho : o ∈ pre ++ post := hrest ▸ ho
    rw [hoff]
    rcases List.mem_append.mp ho with ho | ho <;> simp [ho]

theorem step_onto {g : Background} {s : State} (h : InSession g s) :
    step (onto g s) = mapNext (onto g) (step s) := by
  have hr : (onto g s).resetLine = false := h.noReset
  have hn := nextOffer_onto h
  rcases h.step_cases with ⟨hnone, hs⟩ | ⟨w, rest, hsome, hin, hs⟩
  · rw [hs, step_of_none hr (hn.trans hnone), mapNext_next]
  · rw [hs, step_of_nextOffer hr (hn.trans hsome)]
    exact runWord_beat_onto w hin.wsSet

theorem InSession.step {g : Background} {s t : State} (h : InSession g s) (hs : step s = .next t) : InSession g t := by
  rcases h.step_cases with ⟨-, h'⟩ | ⟨w, rest, -, hin, h'⟩
  · rw [h'] at hs
    injection hs with hs
    exact hs ▸ h
  · obtain ⟨hw, hr, ho, hd⟩ := runWord_beat_keepsPorts (h'.symm.trans hs)
    exact ⟨hr.trans hin.noReset, ho ▸ hin.beats, fun hp => hw.trans (hin.wsSet (hd hp))⟩

/-- A run of `n + 1` steps that does not stop, taken apart at its first step. -/
theorem run_succ_next {n : Nat} {s t : State} (h : Host.Core.run Sys2Proof.core (n + 1) s = .next t) :
    ∃ u, step s = .next u ∧ Host.Core.run Sys2Proof.core n u = .next t := by
  simp only [Host.Core.run] at h
  split at h
  · rename_i u hu
    exact ⟨u, hu, h⟩
  · cases h
  · cases h

/-- A run inside a session, on a background, is the run without it, set onto the background. -/
theorem run_onto {g : Background} {n : Nat} {s t : State} (h : InSession g s)
    (hrun : Host.Core.run Sys2Proof.core n (onto g s) = .next t) :
    ∃ v, Host.Core.run Sys2Proof.core n s = .next v ∧ t = onto g v := by
  induction n generalizing s with
  | zero =>
    injection hrun with ht
    exact ⟨s, rfl, ht.symm⟩
  | succ n ih =>
    obtain ⟨u, hu, hrun⟩ := run_succ_next hrun
    obtain ⟨v, hv, rfl⟩ := mapNext_eq_next ((step_onto h).symm.trans hu)
    rw [run_succ hv]
    exact ih (h.step hv) hrun

/-! ### Whole sessions -/

/-- What a session offers after its command: the input and EOS. -/
def sessionBeats (S : List Byte) : List Offer := S.map (fun b => Offer.word (dataBeat b)) ++ [.word eosBeat]

theorem sessionOffers_eq (cmd : PortWord) (S : List Byte) : sessionOffers cmd S = .word cmd :: sessionBeats S := rfl

theorem sessionBeats_beat {S : List Byte} {o : Offer} (h : o ∈ sessionBeats S) : ∃ w, o = .word (.beat w) := by
  rcases List.mem_append.mp h with h | h
  · obtain ⟨b, -, rfl⟩ := List.mem_map.mp h
    exact ⟨_, rfl⟩
  · exact ⟨_, List.mem_singleton.mp h⟩

/-- The state in which a command leaves a core that was in its reset state, with the input and EOS still offered. -/
def sessionStart (ph : Phase) (ws : WsSet) (kb ki : Sextet) (S : List Byte) : State :=
  { sessionInit kb ki State.reset with phase := ph, wsSet := ws, offers := sessionBeats S }

theorem sessionStart_inSession {ph : Phase} {ws : WsSet} {g : Background} (kb ki : Sextet) (S : List Byte)
    (hw : ph = .dec → ws = g.wsSet) : InSession g (sessionStart ph ws kb ki S) :=
  ⟨rfl, fun _ => sessionBeats_beat, hw⟩

/-- The two fields of a command word decode to the keys it was written with (R91). -/
theorem decode_cmdWord (ws : WsSet) (op : Bool) (kb ki : Sextet) :
    decode ws .idle (cmdWord op kb ki) = .instr (if op then .enc kb ki else .dec kb ki) := by
  have hop : cmdOp (BitVec.ofBool op ++ kb ++ ki) = op := by
    simp only [cmdOp, BitVec.getLsbD_append]
    cases op <;> rfl
  have hkb : cmdKb (BitVec.ofBool op ++ kb ++ ki) = kb := by
    ext i hi
    simp [cmdKb, BitVec.getLsbD_append, hi]
  have hki : cmdKi (BitVec.ofBool op ++ kb ++ ki) = ki := by
    ext i hi
    simp [cmdKi, BitVec.getLsbD_append, hi]
  simp only [cmdWord, decode, if_true, decodeCmd, hop, hkb, hki]

/-- The command that `op` selects, in phase IDLE (R210, R211). -/
theorem exec_command {s : State} (op : Bool) (kb ki : Sextet) (hp : s.phase = .idle) :
    exec (if op then .enc kb ki else .dec kb ki) s =
      .next { sessionInit kb ki s with phase := if op then .enc else .dec } := by
  cases op with
  | true =>
    change execEnc kb ki s = _
    rw [execEnc, inPhase_of_eq hp]
    rfl
  | false =>
    change execDec kb ki s = _
    rw [execDec, inPhase_of_eq hp]
    rfl

/-- The command of a session sets the session's start state onto the background (R210, R211, R212). -/
theorem step_command {s : State} {op : Bool} {kb ki : Sextet} {S : List Byte} (ws : WsSet)
    (h : ReadyFor s (sessionOffers (cmdWord op kb ki) S)) :
    step s = .next (onto s.background (sessionStart (if op then .enc else .dec) ws kb ki S)) := by
  obtain ⟨hp, hr, ho⟩ := h
  have hacc : accepts s (.word (cmdWord op kb ki)) = true := by simp [cmdWord, accepts, hp]
  have hn : nextOffer s = some (.word (cmdWord op kb ki), sessionBeats S) := by
    rw [nextOffer, ho, sessionOffers_eq]
    exact takeFirst_append (pre := []) (by simp) hacc
  rw [step_of_nextOffer hr hn, runOffer, runWord_of_instr (hp ▸ decode_cmdWord s.wsSet op kb ki)]
  refine (exec_command (s := { s with offers := sessionBeats S }) op kb ki hp).trans ?_
  simp [onto, State.background, sessionStart, sessionInit, State.reset, hr]

/-- A session from any state is the session from the start state, on the background that the state brings. -/
theorem session_from_start {s t : State} {op : Bool} {kb ki : Sextet} {S : List Byte} {ws : WsSet}
    (hw : op = false → ws = s.wsSet) (h : ReadyFor s (sessionOffers (cmdWord op kb ki) S))
    (hrun : Host.Core.run Sys2Proof.core (S.length + 2) s = .next t) :
    ∃ v, Host.Core.run Sys2Proof.core (S.length + 1) (sessionStart (if op then .enc else .dec) ws kb ki S) = .next v ∧
      t = onto s.background v := by
  rw [run_succ (step_command ws h)] at hrun
  exact run_onto (sessionStart_inSession kb ki S fun hp => hw (by cases op <;> simp_all)) hrun

/-- Two sessions with the same command and input emit the same bytes and end with the same STATUS word, if a decode session has
the same `WS_SET` in both. -/
theorem session_independent {s t s' t' : State} {op : Bool} {kb ki : Sextet} {S out out' : List Byte}
    (hw : op = false → s.wsSet = s'.wsSet)
    (h : ReadyFor s (sessionOffers (cmdWord op kb ki) S)) (h' : ReadyFor s' (sessionOffers (cmdWord op kb ki) S))
    (hrun : Host.Core.run Sys2Proof.core (S.length + 2) s = .next t)
    (hrun' : Host.Core.run Sys2Proof.core (S.length + 2) s' = .next t')
    (ho : t.outq = s.outq ++ out) (ho' : t'.outq = s'.outq ++ out') : out = out' ∧ statusWord t = statusWord t' := by
  obtain ⟨v, hv, rfl⟩ := session_from_start (ws := s.wsSet) (fun _ => rfl) h hrun
  obtain ⟨v', hv', rfl⟩ := session_from_start hw h' hrun'
  obtain rfl : v = v' := by
    injection hv.symm.trans hv'
  have hout : v.outq = out := List.append_cancel_left ho
  have hout' : v.outq = out' := List.append_cancel_left ho'
  exact ⟨hout.symm.trans hout', (statusWord_onto _ v).trans (statusWord_onto _ v).symm⟩

/-- Settles O54: each of the two sessions is the session from the same start state, on another background. -/
theorem sessionsAreIndependent : Obligations.SessionsAreIndependent := by
  constructor
  · rintro s t s' t' S out out' kb ki ⟨h, hrun⟩ ⟨h', hrun'⟩ ho ho'
    exact session_independent (by simp) h h' hrun hrun' ho ho'
  · rintro s t s' t' T out out' kb ki hw ⟨h, hrun⟩ ⟨h', hrun'⟩ ho ho'
    exact session_independent (fun _ => hw) h h' hrun hrun' ho ho'

end Sys2Proof.Machine

/-! PROOFS. The encodings as arithmetic. A concatenation of bit fields is a sum with the upper field shifted up, so the command word
(R91) and the packing of a block (R97, R98) are sums, quotients and remainders, and their inverse laws are linear arithmetic. The
class of a byte (R100, R101, R102) is its class under the empty `WS_SET`, unless the byte is in `WS_SET`; a legal `WS_SET` takes
its bytes from class INV alone. -/

namespace Sys2Proof.Machine

/-- Concatenation of bit fields as arithmetic: the upper field comes first. -/
theorem toNat_append_eq_add {m n : Nat} (x : BitVec m) (y : BitVec n) : (x ++ y).toNat = x.toNat * 2 ^ n + y.toNat := by
  rw [BitVec.toNat_append, ← Nat.shiftLeft_add_eq_or_of_lt y.isLt, Nat.shiftLeft_eq]

/-! ### The command word (R91) -/

theorem cmdWord_eq_ofNat (op : Bool) (kb ki : Sextet) :
    cmdWord op kb ki = .cmd (BitVec.ofNat 13 (0x1000 * op.toNat + 64 * kb.toNat + ki.toNat)) := by
  have hkb := Sextet.toNat_lt kb
  have hki := Sextet.toNat_lt ki
  have hop := Bool.toNat_lt op
  refine congrArg PortWord.cmd (BitVec.eq_of_toNat_eq (.trans ?_ (BitVec.toNat_ofNat _ 13).symm))
  rw [toNat_append_eq_add, toNat_append_eq_add, BitVec.toNat_ofBool, two_pow_symBits]
  omega

/-- Every command word is read as ENC or as DEC of its two fields: the bit OP only chooses between them. -/
theorem decode_cmd_cases (ws : WsSet) (w : CmdWord) :
    decode ws .idle (.cmd w) = .instr (.enc (cmdKb w) (cmdKi w)) ∨
    decode ws .idle (.cmd w) = .instr (.dec (cmdKb w) (cmdKi w)) := by
  change Decoded.instr (decodeCmd w) = _ ∨ Decoded.instr (decodeCmd w) = _
  rw [decodeCmd]
  cases cmdOp w with
  | true => exact .inl rfl
  | false => exact .inr rfl

/-- Settles O4: the two sums are the encoder's words of the commands, which decode to the keys they were written with. -/
theorem commandWordsAreAllLegal : Obligations.CommandWordsAreAllLegal := by
  refine ⟨fun ws kb ki => ⟨?_, ?_⟩, fun ws w => ⟨cmdKb w, cmdKi w, decode_cmd_cases ws w⟩⟩
  · simpa [cmdWord_eq_ofNat] using decode_cmdWord ws true kb ki
  · simpa [cmdWord_eq_ofNat] using decode_cmdWord ws false kb ki

/-! ### The packing of a block (R97, R98) -/

theorem packSextets_toNat (r : RawBlock) :
    (packSextets r).s0.toNat = r.b0.toNat / 4 ∧
    (packSextets r).s1.toNat = r.b0.toNat % 4 * 16 + r.b1.toNat / 16 ∧
    (packSextets r).s2.toNat = r.b1.toNat % 16 * 4 + r.b2.toNat / 64 ∧
    (packSextets r).s3.toNat = r.b2.toNat % 64 := by
  have h0 := Byte.toNat_lt r.b0
  have h1 := Byte.toNat_lt r.b1
  have h2 := Byte.toNat_lt r.b2
  simp only [packSextets, toNat_append_eq_add, BitVec.extractLsb'_toNat, Nat.shiftRight_eq_div_pow, two_pow_symBits]
  omega

theorem unpackBytes_toNat (t : SymBlock) :
    (unpackBytes t).b0.toNat = t.s0.toNat * 4 + t.s1.toNat / 16 ∧
    (unpackBytes t).b1.toNat = t.s1.toNat % 16 * 16 + t.s2.toNat / 4 ∧
    (unpackBytes t).b2.toNat = t.s2.toNat % 4 * 64 + t.s3.toNat := by
  have h1 := Sextet.toNat_lt t.s1
  have h2 := Sextet.toNat_lt t.s2
  simp only [unpackBytes, toNat_append_eq_add, BitVec.extractLsb'_toNat, Nat.shiftRight_eq_div_pow, two_pow_symBits]
  omega

theorem RawBlock.eq_of_toNat_eq {r r' : RawBlock} (h0 : r.b0.toNat = r'.b0.toNat) (h1 : r.b1.toNat = r'.b1.toNat)
    (h2 : r.b2.toNat = r'.b2.toNat) : r = r' := by
  cases r
  cases r'
  rw [RawBlock.mk.injEq]
  exact ⟨BitVec.eq_of_toNat_eq h0, BitVec.eq_of_toNat_eq h1, BitVec.eq_of_toNat_eq h2⟩

theorem SymBlock.eq_of_toNat_eq {t t' : SymBlock} (h0 : t.s0.toNat = t'.s0.toNat) (h1 : t.s1.toNat = t'.s1.toNat)
    (h2 : t.s2.toNat = t'.s2.toNat) (h3 : t.s3.toNat = t'.s3.toNat) : t = t' := by
  cases t
  cases t'
  rw [SymBlock.mk.injEq]
  exact ⟨BitVec.eq_of_toNat_eq h0, BitVec.eq_of_toNat_eq h1, BitVec.eq_of_toNat_eq h2, BitVec.eq_of_toNat_eq h3⟩

theorem unpackBytes_packSextets (r : RawBlock) : unpackBytes (packSextets r) = r := by
  obtain ⟨hs0, hs1, hs2, hs3⟩ := packSextets_toNat r
  obtain ⟨hb0, hb1, hb2⟩ := unpackBytes_toNat (packSextets r)
  have h1 := Byte.toNat_lt r.b1
  have h2 := Byte.toNat_lt r.b2
  apply RawBlock.eq_of_toNat_eq <;> omega

theorem packSextets_unpackBytes (t : SymBlock) : packSextets (unpackBytes t) = t := by
  obtain ⟨hb0, hb1, hb2⟩ := unpackBytes_toNat t
  obtain ⟨hs0, hs1, hs2, hs3⟩ := packSextets_toNat (unpackBytes t)
  have h1 := Sextet.toNat_lt t.s1
  have h2 := Sextet.toNat_lt t.s2
  have h3 := Sextet.toNat_lt t.s3
  apply SymBlock.eq_of_toNat_eq <;> omega

/-- Settles O8. -/
theorem packingIsABijection : Obligations.PackingIsABijection :=
  ⟨unpackBytes_toNat, unpackBytes_packSextets, packSextets_unpackBytes⟩

/-! ### The class of an alphabet character (R101) -/

/-- The position of a byte in a range that starts at `a`, counted from `b`, without the wrap of the byte's width. -/
theorem setWidth_sub_add {c : Byte} {a b : Nat} (h : a ≤ c.toNat) :
    (c - BitVec.ofNat 8 a + BitVec.ofNat 8 b).setWidth 6 = BitVec.ofNat 6 (c.toNat - a + b) := by
  have hc := Byte.toNat_lt c
  apply BitVec.eq_of_toNat_eq
  simp only [BitVec.toNat_setWidth, BitVec.toNat_add, BitVec.toNat_sub, BitVec.toNat_ofNat, two_pow_byteBits]
  omega

theorem symIndex_eq_arith (c : Byte) :
    symIndex c =
      if 0x41 ≤ c.toNat ∧ c.toNat ≤ 0x5A then some (BitVec.ofNat 6 (c.toNat - 0x41))
      else if 0x61 ≤ c.toNat ∧ c.toNat ≤ 0x7A then some (BitVec.ofNat 6 (c.toNat - 0x61 + 26))
      else if 0x30 ≤ c.toNat ∧ c.toNat ≤ 0x39 then some (BitVec.ofNat 6 (c.toNat - 0x30 + 52))
      else if c = 0x2B#8 then some 62#6
      else if c = 0x2F#8 then some 63#6
      else none := by
  refine if_ctx_congr Iff.rfl (fun h => ?_) fun _ => if_ctx_congr Iff.rfl (fun h => ?_) fun _ =>
    if_ctx_congr Iff.rfl (fun h => ?_) fun _ => rfl
  · simpa using congrArg some (setWidth_sub_add (b := 0) h.1)
  · exact congrArg some (setWidth_sub_add h.1)
  · exact congrArg some (setWidth_sub_add h.1)

section
variable {ws : WsSet} {c : Byte} (h : Config.wsLegal ws = true)
include h

/-- A legal `WS_SET` holds no alphabet character (R8), so the first test of `Class` does not hide the third (R100). -/
theorem classify_sym_iff_of_legal {v : Sextet} : classify ws c = .sym v ↔ symIndex c = some v := by
  refine ⟨fun hc => (classify_sym_iff.mp hc).2, fun hc => classify_sym_iff.mpr ⟨fun hm => ?_, hc⟩⟩
  cases hc.symm.trans (legal_mem h hm).2

theorem classify_upper (hc : 0x41 ≤ c.toNat ∧ c.toNat ≤ 0x5A) :
    classify ws c = .sym (BitVec.ofNat 6 (c.toNat - 0x41)) := by
  rw [classify_sym_iff_of_legal h, symIndex_eq_arith, if_pos hc]

theorem classify_lower (hc : 0x61 ≤ c.toNat ∧ c.toNat ≤ 0x7A) :
    classify ws c = .sym (BitVec.ofNat 6 (c.toNat - 0x61 + 26)) := by
  rw [classify_sym_iff_of_legal h, symIndex_eq_arith, if_neg (by omega), if_pos hc]

theorem classify_digit (hc : 0x30 ≤ c.toNat ∧ c.toNat ≤ 0x39) :
    classify ws c = .sym (BitVec.ofNat 6 (c.toNat - 0x30 + 52)) := by
  rw [classify_sym_iff_of_legal h, symIndex_eq_arith, if_neg (by omega), if_neg (by omega), if_pos hc]

theorem classify_plus (hc : c = 0x2B#8) : classify ws c = .sym 62#6 :=
  (classify_sym_iff_of_legal h).mpr (hc ▸ rfl)

theorem classify_slash (hc : c = 0x2F#8) : classify ws c = .sym 63#6 :=
  (classify_sym_iff_of_legal h).mpr (hc ▸ rfl)

end

/-- Settles O7: under a legal `WS_SET` the class SYM is the index of the character, and the index inverts ALPHA. -/
theorem classInvertsAlphabet : Obligations.ClassInvertsAlphabet :=
  ⟨fun _ _ h => ⟨classify_upper h, classify_lower h, classify_digit h, classify_plus h, classify_slash h⟩,
    fun _ v h => (classify_sym_iff_of_legal h).mpr (symIndex_alpha v),
    fun _ c v h hc => alpha_of_symIndex c v ((classify_sym_iff_of_legal h).mp hc)⟩

/-! ### The class under another `WS_SET` (R102) -/

/-- Outside `WS_SET` the class does not depend on it. -/
theorem classify_of_not_mem {ws : WsSet} {c : Byte} (h : c ∉ ws) : classify ws c = classify [] c := by
  simp [classify, h]

/-- Out of a legal `WS_SET` its bytes fall into class INV. -/
theorem classify_empty_of_mem {ws : WsSet} {c : Byte} (h : Config.wsLegal ws = true) (hc : c ∈ ws) :
    classify [] c = .inv :=
  classify_inv_iff.mpr ⟨List.not_mem_nil, legal_mem h hc⟩

/-- A byte has different classes under two legal sets only where it is in one of them. -/
theorem classify_change {ws ws' : WsSet} {c : Byte} (h : Config.wsLegal ws = true) (h' : Config.wsLegal ws' = true)
    (hne : classify ws c ≠ classify ws' c) :
    (classify ws c = .ws ∧ classify ws' c = .inv) ∨ (classify ws c = .inv ∧ classify ws' c = .ws) := by
  by_cases hm : c ∈ ws <;> by_cases hm' : c ∈ ws'
  · exact absurd ((classify_of_mem hm).trans (classify_of_mem hm').symm) hne
  · exact .inl ⟨classify_of_mem hm, (classify_of_not_mem hm').trans (classify_empty_of_mem h hm)⟩
  · exact .inr ⟨(classify_of_not_mem hm).trans (classify_empty_of_mem h' hm'), classify_of_mem hm'⟩
  · exact absurd ((classify_of_not_mem hm).trans (classify_of_not_mem hm').symm) hne

/-- Settles O6: each line of the table is one of the facts above, at the default `WS_SET`. -/
theorem defaultClassTable : Obligations.DefaultClassTable := by
  refine ⟨fun ws c h => classify_change h wsDefault_legal, fun c => ?_⟩
  split_ifs with hws hplus hslash hdigit hpad hupper hlower
  · exact classify_of_mem hws
  · exact classify_plus wsDefault_legal hplus
  · exact classify_slash wsDefault_legal hslash
  · exact classify_digit wsDefault_legal hdigit
  · exact classify_pad_iff.mpr ⟨hws, hpad⟩
  · exact classify_upper wsDefault_legal hupper
  · exact classify_lower wsDefault_legal hlower
  · refine classify_inv_iff.mpr ⟨hws, hpad, ?_⟩
    rw [symIndex, if_neg hupper, if_neg hlower, if_neg hdigit, if_neg hplus, if_neg hslash]

end Sys2Proof.Machine

/-! PROOFS. The key scheduler. Everything about `fmod64` (R120, R121) follows from one fact, that it answers the residue modulo 64:
two integers with the same residue have the same `fmod64`, whichever remainder or bit width they come from. `KsNext` (R122) reads
the key state only through that residue, so it does not matter whether the sum it leaves is reduced. -/

namespace Sys2Proof.Machine

/-! ### The floored modulus (R120) -/

theorem dvd_sub_fmod64 (x : Int) : (64 : Int) ∣ x - (fmod64 x).toNat := by
  rw [fmod64_toNat]
  exact Int.dvd_self_sub_emod

/-- The uniqueness of R120. -/
theorem fmod64_toNat_unique (x : Int) (r : Nat) (hr : r ≤ 63) (h : (64 : Int) ∣ x - r) : (fmod64 x).toNat = r := by
  have hx := fmod64_toNat x
  omega

theorem fmod64_toNat_eq_sub_floor (x : Int) : ((fmod64 x).toNat : Int) = x - 64 * x.fdiv 64 := by
  rw [fmod64_toNat, Int.fdiv_eq_ediv_of_nonneg x (by decide), Int.emod_def]

theorem fmod64_toNat_eq_setWidth {w : Nat} (b : BitVec w) : fmod64 b.toNat = b.setWidth 6 := by
  apply BitVec.eq_of_toNat_eq
  rw [fmod64_natCast, BitVec.toNat_setWidth, two_pow_symBits]

/-- From 6 bits on, the signed and the unsigned reading of a bit vector differ by a multiple of 64. -/
theorem toInt_emod_64 {w : Nat} (hw : 6 ≤ w) (b : BitVec w) : b.toInt % 64 = (b.toNat : Int) % 64 := by
  have hdvd : (64 : Int) ∣ ((2 ^ w : Nat) : Int) := Int.natCast_dvd_natCast.mpr (pow_dvd_pow 2 hw)
  calc b.toInt % 64 = b.toInt % ((2 ^ w : Nat) : Int) % 64 := (Int.emod_emod_of_dvd _ hdvd).symm
    _ = (b.toNat : Int) % ((2 ^ w : Nat) : Int) % 64 := by rw [BitVec.toInt_eq_toNat_bmod, Int.bmod_emod]
    _ = (b.toNat : Int) % 64 := Int.emod_emod_of_dvd _ hdvd

/-- Two's complement has the low 6 bits of the floored modulus, because its reading has the residue of the unsigned one. -/
theorem fmod64_toInt_eq_setWidth {w : Nat} (hw : 6 ≤ w) (b : BitVec w) : fmod64 b.toInt = b.setWidth 6 :=
  (fmod64_congr (toInt_emod_64 hw b)).trans (fmod64_toNat_eq_setWidth b)

/-- Settles O9. The claim of R120 for 7 bits or more holds from 6 bits on. -/
theorem flooredModulusIsUnique : Obligations.FlooredModulusIsUnique :=
  ⟨dvd_sub_fmod64, fmod64_toNat_unique, fmod64_toNat_eq_sub_floor, fun _ => fmod64_toNat_eq_setWidth,
    fun _ b hw => fmod64_toInt_eq_setWidth (Nat.le_of_succ_le hw) b⟩

/-! ### `KsNext` (R122) -/

theorem ksAdvance_k_le (s : State) : (ksAdvance s).k.toNat ≤ kMax := by
  have hi := Sextet.toNat_lt s.inc
  rw [ksAdvance_k_toNat, kMax_eq]
  omega

/-- The offsets read the key state only modulo 64, now and after any number of calls. -/
theorem ksOffset_iterate_congr {s t : State} (hk : s.k.toNat % 64 = t.k.toNat % 64) (hi : s.inc = t.inc) (j : Nat) :
    ksOffset (ksAdvance^[j] s) = ksOffset (ksAdvance^[j] t) := by
  apply BitVec.eq_of_toNat_eq
  rw [ksOffset_iterate, ksOffset_iterate, hi]
  exact Nat.ModEq.add_right _ hk

/-- A key register that holds `fmod64` of a number has the residue of that number. -/
theorem fmod64_setWidth_toNat_mod (n : Nat) : ((fmod64 (n : Int)).setWidth 7).toNat % 64 = n % 64 := by
  rw [BitVec.toNat_setWidth, fmod64_natCast]
  omega

/-- Settles O12: the sum reduced and the sum as `KsNext` leaves it have the same residue, so the same offsets follow. -/
theorem ksNextReturnsOffsetAndAdvances : Obligations.KsNextReturnsOffsetAndAdvances := by
  intro s
  refine ⟨ksOffset_toNat s, ksAdvance_k_toNat s, ksAdvance_k_le s, ksAdvance_eq s, ksOffset_iterate_congr ?_ rfl⟩
  calc ((fmod64 ((s.k.toNat % 64 + s.inc.toNat : Nat) : Int)).setWidth 7).toNat % 64
      = (s.k.toNat % 64 + s.inc.toNat) % 64 := fmod64_setWidth_toNat_mod _
    _ = (ksAdvance s).k.toNat % 64 := by rw [ksAdvance_k_toNat]

/-! ### The source's formula (R121) -/

/-- The outer step of the source's formula, on every inner remainder of at least -64: adding 64 makes it nonnegative, where
truncating and flooring agree. -/
theorem add_64_tmod_64 {x r : Int} (hr : -64 ≤ r) (h : r % 64 = x % 64) : (r + 64).tmod 64 = (fmod64 x).toNat := by
  rw [Int.tmod_eq_emod_of_nonneg (by omega), fmod64_toNat, Int.add_emod_right, h]

theorem tmod_64_emod_64 (x : Int) : x.tmod 64 % 64 = x % 64 := by
  have h := Int.mul_tdiv_add_tmod x 64
  omega

/-- Settles O10: the inner remainder has the residue of `x` and is above -64 if it truncates, not negative if it floors. -/
theorem sourceModulusFormulaAgrees : Obligations.SourceModulusFormulaAgrees := by
  intro x
  constructor
  · exact add_64_tmod_64 (Int.lt_tmod_of_pos x (by decide)).le (tmod_64_emod_64 x)
  · have hfloor : x.fmod 64 = x % 64 := Int.fmod_eq_emod_of_nonneg x (by decide)
    have hpos : 0 ≤ x % 64 := Int.emod_nonneg x (by decide)
    exact add_64_tmod_64 (by omega) (by rw [hfloor, Int.emod_emod])

/-! ### The mapping and its inverse (R127 to R129) -/

theorem subMod_addMod (s off : Sextet) : subMod (addMod s off) off = s := by
  have hs := Sextet.toNat_lt s
  have hoff := Sextet.toNat_lt off
  apply BitVec.eq_of_toNat_eq
  rw [subMod_toNat, addMod_toNat]
  omega

theorem addMod_subMod (s off : Sextet) : addMod (subMod s off) off = s := by
  have hs := Sextet.toNat_lt s
  have hoff := Sextet.toNat_lt off
  apply BitVec.eq_of_toNat_eq
  rw [addMod_toNat, subMod_toNat]
  omega

/-- Settles O11. -/
theorem subModInvertsAddMod : Obligations.SubModInvertsAddMod :=
  fun s off => ⟨subMod_addMod s off, addMod_subMod s off⟩

end Sys2Proof.Machine

/-! PROOFS. An encode session is the function of R156. From the start of a block, three bytes make the next block and two or fewer
end the session, which is how the function reads its input. The function reads its positions only modulo 64 (the key) and modulo
76 (the column), so what it emits after a block is what it emits from the key and the column that the block leaves. -/

namespace Sys2Proof.Machine

open Sys2Proof.Safety

/-! ### The step that takes a beat -/

/-- In a phase that takes beats, the step takes the first offered beat (R218). -/
theorem step_beat {s : State} {w : BeatWord} {rest : List Offer} (hr : s.resetLine = false)
    (hp : s.phase = .enc ∨ s.phase = .dec) (ho : s.offers = .word (.beat w) :: rest) :
    step s = runWord (.beat w) { s with offers := rest } := by
  have hacc : accepts s (.word (.beat w)) = true := by simpa [accepts] using hp
  have hn : nextOffer s = some (.word (.beat w), rest) := by
    rw [nextOffer, ho]
    exact takeFirst_append (pre := []) (by simp) hacc
  exact step_of_nextOffer hr hn

/-- In phase ENC a data beat is stored (R143). -/
theorem step_encIn {s : State} {b : Byte} {rest : List Offer} (hr : s.resetLine = false) (hp : s.phase = .enc)
    (ho : s.offers = .word (dataBeat b) :: rest) : step s = storeRaw b { s with offers := rest } := by
  rw [step_beat hr (.inl hp) ho]
  refine (runWord_of_instr (i := .encIn b) ?_).trans (inPhase_of_eq (s := { s with offers := rest }) hp _)
  exact hp ▸ decode_dataBeat_enc s.wsSet b

/-- In phase ENC the beat EOS ends the session (R150). -/
theorem step_encEos {s : State} {rest : List Offer} (hr : s.resetLine = false) (hp : s.phase = .enc)
    (ho : s.offers = .word eosBeat :: rest) : step s = finishEncode { s with offers := rest } := by
  rw [step_beat hr (.inl hp) ho]
  refine (runWord_of_instr (i := .encEos) ?_).trans (inPhase_of_eq (s := { s with offers := rest }) hp _)
  exact hp ▸ decode_eosBeat_enc s.wsSet

/-! ### The session function reads its positions modulo 64 and modulo 76 -/

/-- Positions with the same offset have the same offset `i` symbols later (R125). -/
theorem offset_add_congr {kb kb' ki j j' : Nat} (h : (kb + j * ki) % 64 = (kb' + j' * ki) % 64) (i : Nat) :
    (kb + (j + i) * ki) % 64 = (kb' + (j' + i) * ki) % 64 := by
  rw [Nat.add_mul, Nat.add_mul]
  omega

theorem keyedChar_congr {kb kb' ki j j' : Nat} (h : (kb + j * ki) % 64 = (kb' + j' * ki) % 64) (i : Nat) (v : Sextet) :
    keyedChar kb ki (j + i) v = keyedChar kb' ki (j' + i) v := by
  unfold keyedChar
  congr 1
  apply fmod64_congr
  push_cast
  rw [Int.add_mul, Int.add_mul]
  omega

theorem blockChars_congr {kb kb' ki j j' : Nat} (h : (kb + j * ki) % 64 = (kb' + j' * ki) % 64) (m : Nat) (r : RawBlock) :
    blockChars kb ki j m r = blockChars kb' ki j' m r := by
  have hk := keyedChar_congr h
  simp only [blockChars, hk 1, hk 2, hk 3]
  rw [show keyedChar kb ki j = keyedChar kb' ki j' from funext (hk 0)]

theorem encodeChars_congr {kb kb' ki : Nat} : ∀ (S : List Byte) {j j' : Nat},
    (kb + j * ki) % 64 = (kb' + j' * ki) % 64 → encodeChars kb ki j S = encodeChars kb' ki j' S
  | [], _, _, _ => rfl
  | [_], _, _, h => blockChars_congr h _ _
  | [_, _], _, _, h => blockChars_congr h _ _
  | _ :: _ :: _ :: S, j, j', h => by
    have h' := offset_add_congr h 4
    rw [encodeChars, encodeChars, blockChars_congr h, encodeChars_congr S h']

theorem keyAfterBlock_toNat_mod (k : BitVec 7) (inc : Sextet) :
    (keyAfterBlock k.toNat inc.toNat).toNat % 64 = (k.toNat + 4 * inc.toNat) % 64 := by
  rw [keyAfterBlock, BitVec.toNat_ofNat, alphabetSize_eq]
  omega

theorem wrapLines_nil (j : Nat) : wrapLines j [] = if j % 76 = 0 then [] else [newline] := rfl

theorem wrapLines_cons (j : Nat) (c : Byte) (cs : List Byte) :
    wrapLines j (c :: cs) =
      if (j + 1) % 76 = 0 then c :: newline :: wrapLines (j + 1) cs else c :: wrapLines (j + 1) cs := rfl

theorem wrapLines_congr (cs : List Byte) {j j' : Nat} (h : j % 76 = j' % 76) : wrapLines j cs = wrapLines j' cs := by
  induction cs generalizing j j' with
  | nil => simp only [wrapLines_nil, h]
  | cons c cs ih =>
    have h' : (j + 1) % 76 = (j' + 1) % 76 := by omega
    simp only [wrapLines_cons, h', ih h']

/-- A block that starts at a multiple of 4 is broken only at its end (R155). -/
theorem wrapLines_block {j : Nat} (hj : 4 ∣ j) (a b c d : Byte) (cs : List Byte) :
    wrapLines j (a :: b :: c :: d :: cs) =
      [a, b, c, d] ++ (if (j + 4) % 76 = 0 then [newline] else []) ++ wrapLines (j + 4) cs := by
  have h1 : (j + 1) % 76 ≠ 0 := by omega
  have h2 : (j + 2) % 76 ≠ 0 := by omega
  have h3 : (j + 3) % 76 ≠ 0 := by omega
  by_cases h4 : (j + 4) % 76 = 0
  · simp [wrapLines_cons, h1, h2, h3, h4]
  · simp [wrapLines_cons, h1, h2, h3, h4]

theorem wrapLines_blockChars {j : Nat} (hj : 4 ∣ j) (kb ki i m : Nat) (r : RawBlock) (cs : List Byte) :
    wrapLines j (blockChars kb ki i m r ++ cs) =
      blockChars kb ki i m r ++ (if (j + 4) % 76 = 0 then [newline] else []) ++ wrapLines (j + 4) cs :=
  wrapLines_block hj _ _ _ _ cs

/-- Whichever rule emits it, exactly one newline follows the last block (R149, R150). -/
theorem wrapLines_last_block {j : Nat} (hj : 4 ∣ j) (kb ki i m : Nat) (r : RawBlock) :
    wrapLines j (blockChars kb ki i m r) = blockChars kb ki i m r ++ [newline] := by
  have h := wrapLines_blockChars hj kb ki i m r []
  rw [List.append_nil, wrapLines_nil] at h
  rw [h]
  split <;> simp

/-! ### The end of an encode session -/

/-- The column after a block (R155). -/
theorem col_after_block {col : BitVec 7} (hd : 4 ∣ col.toNat) (hl : col.toNat ≤ 72) :
    (if col = 72#7 then 0#7 else col + 4#7).toNat = (col.toNat + 4) % 76 := by
  split
  · rename_i h
    rw [h]
    rfl
  · rename_i h
    have h72 : col.toNat ≠ 72 := fun hc => h (BitVec.eq_of_toNat_eq hc)
    rw [BitVec.toNat_add]
    show (col.toNat + 4) % 128 = _
    omega

/-- A block fills the line exactly where it ends at column 76. -/
theorem fills_line_iff {col : BitVec 7} (hl : col.toNat ≤ 72) : (col.toNat + 4) % 76 = 0 ↔ col = 72#7 := by
  constructor
  · exact fun h => BitVec.eq_of_toNat_eq (show col.toNat = 72 by omega)
  · rintro rfl
    rfl

/-- EOS with one or two bytes waiting (R150, R153), from a column that is a multiple of 4 below 76. -/
theorem finishEncode_short {s : State} {r : RawBlock} (hn : s.cnt ≠ 0#2) (hr : chunkBytes s.cnt.toNat s.buf = some r)
    (hd : 4 ∣ s.col.toNat) (hl : s.col.toNat ≤ 72) :
    finishEncode s = .next
      { s with
        phase := .idle, done := true
        k := keyAfterBlock s.k.toNat s.inc.toNat
        buf := ChunkBuf.empty, cnt := 0#2, col := 0#7
        outq := s.outq ++ blockChars s.k.toNat s.inc.toNat 0 s.cnt.toNat r ++ [newline] } := by
  rw [finishEncode, if_neg hn, encodeBlock_of_aligned hr hd hl]
  simp only [closeLine_eq]
  by_cases h : s.col = 72#7
  · simp [h]
  · have hcol : s.col + 4#7 ≠ 0#7 := by
      intro h0
      have h4 := col_after_block hd hl
      rw [if_neg h, h0] at h4
      exact h ((fills_line_iff hl).mp h4.symm)
    simp [h, hcol]

/-! ### The run of an encode session -/

/-- The core in an encode session, at the start of a block, with the rest `S` of the input and EOS still offered. -/
structure EncodesRest (s : State) (S : List Byte) : Prop where
  /-- RESET is not asserted -/
  noReset : s.resetLine = false
  /-- PHASE = ENC -/
  phase : s.phase = .enc
  /-- the host offers the rest of the input and EOS -/
  offered : s.offers = sessionBeats S
  /-- no byte waits in BUF -/
  cnt : s.cnt = 0#2
  /-- a block starts at a multiple of 4 (R155) -/
  col_dvd : 4 ∣ s.col.toNat
  /-- a block starts where it fits on the line (R155) -/
  col_le : s.col.toNat ≤ 72
  /-- there is no fault code and no detail -/
  clean : s.err = .none ∧ s.errInfo = 0#byteBits

/-- What an encode session leaves behind that had `out` still to emit in `s`. -/
structure EncodeEnds (s t : State) (out : List Byte) : Prop where
  /-- the rest of the output stands at the tail of OUTQ -/
  outq : t.outq = s.outq ++ out
  /-- the session has ended normally (R141) -/
  ended : EndsAs t .done
  /-- no event is left -/
  offers : t.offers = []
  /-- the host has taken no byte -/
  taken : t.taken = s.taken
  /-- `WS_SET` is as it was -/
  wsSet : t.wsSet = s.wsSet

/-! The arrival of a raw byte, by the number of bytes that wait (R143). -/

theorem storeRaw_first {s : State} (b : Byte) (hc : s.cnt = 0#2) :
    storeRaw b s = .next { s with buf := { s.buf with b0 := some b }, cnt := 1#2 } := by
  rw [storeRaw_eq, if_pos hc]

theorem storeRaw_second {s : State} (b : Byte) (hc : s.cnt = 1#2) :
    storeRaw b s = .next { s with buf := { s.buf with b1 := some b }, cnt := 2#2 } := by
  rw [storeRaw_eq, if_neg (by simp [hc]), if_pos hc]

theorem storeRaw_third {s : State} (b : Byte) (hc : s.cnt = 2#2) :
    storeRaw b s = encodeBlock 3 { s with buf := { s.buf with b2 := some b } } := by
  rw [storeRaw_eq, if_neg (by simp [hc]), if_neg (by simp [hc]), if_pos hc]

/-- The first step of a run in phase ENC, where a data beat is offered. -/
theorem run_encIn {n : Nat} {s u : State} {b : Byte} {rest : List Offer} (hr : s.resetLine = false) (hp : s.phase = .enc)
    (ho : s.offers = .word (dataBeat b) :: rest) (h : storeRaw b { s with offers := rest } = .next u) :
    Host.Core.run Sys2Proof.core (n + 1) s = Host.Core.run Sys2Proof.core n u :=
  run_succ ((step_encIn hr hp ho).trans h)

/-- The run that ends where EOS is offered in phase ENC. -/
theorem run_encEos {s u : State} {rest : List Offer} (hr : s.resetLine = false) (hp : s.phase = .enc)
    (ho : s.offers = .word eosBeat :: rest) (h : finishEncode { s with offers := rest } = .next u) :
    Host.Core.run Sys2Proof.core 1 s = .next u :=
  run_succ ((step_encEos hr hp ho).trans h)

/-- The first byte of a chunk is stored, by one step. -/
theorem run_one_byte {n : Nat} {s : State} {x : Byte} {rest : List Offer} (hr : s.resetLine = false) (hp : s.phase = .enc)
    (hc : s.cnt = 0#2) (ho : s.offers = .word (dataBeat x) :: rest) :
    Host.Core.run Sys2Proof.core (n + 1) s =
      Host.Core.run Sys2Proof.core n { s with offers := rest, buf := { s.buf with b0 := some x }, cnt := 1#2 } :=
  run_encIn hr hp ho (storeRaw_first x hc)

/-- The first two bytes of a chunk are stored, by two steps. -/
theorem run_two_bytes {n : Nat} {s : State} {x y : Byte} {rest : List Offer} (hr : s.resetLine = false)
    (hp : s.phase = .enc) (hc : s.cnt = 0#2) (ho : s.offers = .word (dataBeat x) :: .word (dataBeat y) :: rest) :
    Host.Core.run Sys2Proof.core (n + 2) s =
      Host.Core.run Sys2Proof.core n
        { s with offers := rest, buf := { s.buf with b0 := some x, b1 := some y }, cnt := 2#2 } := by
  rw [run_one_byte hr hp hc ho]
  exact run_encIn hr hp rfl (storeRaw_second y rfl)

/-- The state after a block that did not end the input, with the rest `S` still offered (R144, R149). -/
def afterBlock (r : RawBlock) (S : List Byte) (s : State) : State :=
  { s with
    k := keyAfterBlock s.k.toNat s.inc.toNat
    buf := ChunkBuf.empty, cnt := 0#2
    col := if s.col = 72#7 then 0#7 else s.col + 4#7
    outq := s.outq ++ blockChars s.k.toNat s.inc.toNat 0 blockRaw r ++ (if s.col = 72#7 then [newline] else [])
    offers := sessionBeats S }

section
variable {s : State} {x y z : Byte} {S : List Byte}

/-- Three bytes make a block, by three steps (R143, R144). -/
theorem run_three_bytes (n : Nat) (h : EncodesRest s (x :: y :: z :: S)) :
    Host.Core.run Sys2Proof.core (n + 3) s =
      Host.Core.run Sys2Proof.core n (afterBlock { b0 := x, b1 := y, b2 := z } S s) := by
  obtain ⟨hr, hp, ho, hc, hd, hl, -⟩ := h
  rw [run_two_bytes (n := n + 1) hr hp hc ho]
  exact run_encIn hr hp rfl (Eq.trans (storeRaw_third z rfl) (encodeBlock_of_aligned rfl hd hl))

theorem afterBlock_col (h : EncodesRest s (x :: y :: z :: S)) (r : RawBlock) :
    (afterBlock r S s).col.toNat = (s.col.toNat + 4) % 76 :=
  col_after_block h.col_dvd h.col_le

theorem afterBlock_encodesRest (h : EncodesRest s (x :: y :: z :: S)) (r : RawBlock) :
    EncodesRest (afterBlock r S s) S := by
  have hcol := afterBlock_col h r
  obtain ⟨hr, hp, -, -, hd, hl, he⟩ := h
  exact ⟨hr, hp, rfl, rfl, by omega, by omega, he⟩

/-- What a session has emitted after a block and emits from there is what it emits from the start of the block (R156). -/
theorem outq_afterBlock (h : EncodesRest s (x :: y :: z :: S)) (r : RawBlock) :
    (afterBlock r S s).outq ++ wrapLines (afterBlock r S s).col.toNat
      (encodeChars (afterBlock r S s).k.toNat s.inc.toNat 0 S) =
    s.outq ++ wrapLines s.col.toNat
      (blockChars s.k.toNat s.inc.toNat 0 blockRaw r ++ encodeChars s.k.toNat s.inc.toNat 4 S) := by
  have hcol : (afterBlock r S s).col.toNat % 76 = (s.col.toNat + 4) % 76 := by
    rw [afterBlock_col h, Nat.mod_mod]
  have hkey : ((afterBlock r S s).k.toNat + 0 * s.inc.toNat) % 64 = (s.k.toNat + 4 * s.inc.toNat) % 64 := by
    rw [Nat.zero_mul]
    exact keyAfterBlock_toNat_mod s.k s.inc
  rw [wrapLines_blockChars h.col_dvd, wrapLines_congr _ hcol, encodeChars_congr S hkey]
  simp [afterBlock, fills_line_iff h.col_le]

end

/-- An encode session from the start of a block: a block of three bytes at a time, as the session function reads its input. -/
theorem encode_run : ∀ (S : List Byte) (s : State), EncodesRest s S →
    ∃ t, Host.Core.run Sys2Proof.core (S.length + 1) s = .next t ∧
      EncodeEnds s t (wrapLines s.col.toNat (encodeChars s.k.toNat s.inc.toNat 0 S))
  | [], s, h => by
    obtain ⟨hr, hp, ho, hc, hd, hl, he⟩ := h
    refine ⟨_, run_encEos hr hp ho (if_pos hc), ?_, ⟨rfl, rfl, by simpa using he⟩, by simp, by simp, by simp⟩
    have h0 : s.col = 0#7 ↔ s.col.toNat % 76 = 0 := by
      rw [Nat.mod_eq_of_lt (by omega), BitVec.toNat_eq]
      rfl
    simp only [closeLine_eq, encodeChars, wrapLines_nil, h0]
  | [x], s, h => by
    obtain ⟨hr, hp, ho, hc, hd, hl, he⟩ := h
    refine ⟨_, (run_one_byte hr hp hc ho).trans (run_encEos hr hp rfl (finishEncode_short (by simp) rfl hd hl)), ?_,
      ⟨rfl, rfl, he⟩, rfl, rfl, rfl⟩
    rw [encodeChars, wrapLines_last_block hd, List.append_assoc]
    rfl
  | [x, y], s, h => by
    obtain ⟨hr, hp, ho, hc, hd, hl, he⟩ := h
    refine ⟨_, (run_two_bytes hr hp hc ho).trans (run_encEos hr hp rfl (finishEncode_short (by simp) rfl hd hl)), ?_,
      ⟨rfl, rfl, he⟩, rfl, rfl, rfl⟩
    rw [encodeChars, wrapLines_last_block hd, List.append_assoc]
    rfl
  | x :: y :: z :: S, s, h => by
    obtain ⟨t, hrun, houtq, hend, hoff, htak, hws⟩ := encode_run S _ (afterBlock_encodesRest h { b0 := x, b1 := y, b2 := z })
    exact ⟨t, (run_three_bytes (S.length + 1) h).trans hrun, houtq.trans (outq_afterBlock h _), hend, hoff, htak, hws⟩

/-! ### Whole encode sessions -/

theorem encodeSessionStart_encodesRest (ws : WsSet) (g : Background) (kb ki : Sextet) (S : List Byte) :
    EncodesRest (onto g (sessionStart .enc ws kb ki S)) S :=
  ⟨rfl, rfl, rfl, rfl, ⟨0, rfl⟩, Nat.zero_le _, rfl, rfl⟩

/-- Settles O44: the command starts a session at column 0 with the key base in K. -/
theorem encodeSessionIsTheFunction : Obligations.EncodeSessionIsTheFunction := by
  intro s S kb ki h
  obtain ⟨t, hrun, houtq, hend, hoff, htak, hws⟩ :=
    encode_run S _ (encodeSessionStart_encodesRest s.wsSet s.background kb ki S)
  have hkb : (kb.setWidth 7).toNat = kb.toNat := BitVec.toNat_setWidth_of_le (by decide)
  refine ⟨t, ⟨h, (run_succ (step_command s.wsSet h)).trans hrun⟩, ?_, hend, hoff, htak, hws⟩
  rw [encodeFunction, ← hkb]
  simpa [onto, State.background, sessionStart, State.reset] using houtq

/-- What an encode session appends to OUTQ is the session function of its input and keys. -/
theorem encodeRun_output {s t : State} {S out : List Byte} {kb ki : Sextet} (h : EncodeRun s S kb ki t)
    (ho : t.outq = s.outq ++ out) : out = encodeFunction S kb ki := by
  obtain ⟨t', ⟨-, hrun⟩, houtq, -⟩ := encodeSessionIsTheFunction s S kb ki h.1
  obtain rfl : t = t' := by
    injection h.2.symm.trans hrun
  exact List.append_cancel_left (ho.symm.trans houtq)

end Sys2Proof.Machine

/-! PROOFS. What the output of an encode session looks like. Its characters are alphabet characters and then the markers of R148;
the line breaks of R154 are inserted among them without changing them, every 76 characters and behind the last one. -/

namespace Sys2Proof.Machine

open Sys2Proof.Safety

/-! ### The characters of a session (R109, R156) -/

theorem blockChars_length (kb ki j m : Nat) (r : RawBlock) : (blockChars kb ki j m r).length = 4 := rfl

/-- The characters of a session are alphabet characters, and then a marker for each byte that the last block lacks (R148). -/
theorem encodeChars_eq_alpha_append_pad (kb ki : Nat) : ∀ (j : Nat) (S : List Byte),
    ∃ vs : List Sextet, encodeChars kb ki j S = vs.map alpha ++ List.replicate ((3 - S.length % 3) % 3) padChar
  | _, [] => ⟨[], rfl⟩
  | _, [_] => ⟨[_, _], rfl⟩
  | _, [_, _] => ⟨[_, _, _], rfl⟩
  | j, x :: y :: z :: S => by
    obtain ⟨vs, hvs⟩ := encodeChars_eq_alpha_append_pad kb ki (j + 4) S
    obtain ⟨us, hus⟩ : ∃ us : List Sextet, blockChars kb ki j blockRaw ⟨x, y, z⟩ = us.map alpha :=
      ⟨[_, _, _, _], rfl⟩
    have hlen : (x :: y :: z :: S).length % 3 = S.length % 3 := Nat.add_mod_right S.length 3
    exact ⟨us ++ vs, by rw [encodeChars, hus, hvs, hlen, List.map_append, List.append_assoc]⟩

theorem encodeChars_length (kb ki : Nat) : ∀ (j : Nat) (S : List Byte),
    (encodeChars kb ki j S).length = 4 * ((S.length + 2) / 3)
  | _, [] => rfl
  | _, [_] => by simp [encodeChars, blockChars_length]
  | _, [_, _] => by simp [encodeChars, blockChars_length]
  | j, _ :: _ :: _ :: S => by
    rw [encodeChars, List.length_append, blockChars_length, encodeChars_length kb ki (j + 4) S]
    simp only [List.length_cons]
    omega

theorem alpha_or_pad_of_mem_encodeChars {kb ki j : Nat} {S : List Byte} {c : Byte} (h : c ∈ encodeChars kb ki j S) :
    (∃ v, c = alpha v) ∨ c = padChar := by
  obtain ⟨vs, hvs⟩ := encodeChars_eq_alpha_append_pad kb ki j S
  rw [hvs, List.mem_append, List.mem_map] at h
  rcases h with ⟨v, -, rfl⟩ | h
  · exact .inl ⟨v, rfl⟩
  · exact .inr (List.eq_of_mem_replicate h)

theorem newline_not_mem_encodeChars (kb ki j : Nat) (S : List Byte) : newline ∉ encodeChars kb ki j S := by
  intro h
  rcases alpha_or_pad_of_mem_encodeChars h with ⟨v, hv⟩ | hv
  · exact alpha_ne_newline v hv.symm
  · exact absurd hv (by decide)

theorem count_pad_encodeChars (kb ki j : Nat) (S : List Byte) :
    (encodeChars kb ki j S).count padChar = (3 - S.length % 3) % 3 := by
  obtain ⟨vs, hvs⟩ := encodeChars_eq_alpha_append_pad kb ki j S
  have h0 : (vs.map alpha).count padChar = 0 := by
    rw [List.count_eq_zero, List.mem_map]
    exact fun ⟨v, _, hv⟩ => alpha_ne_padChar v hv
  rw [hvs, List.count_append, h0, List.count_replicate_self, Nat.zero_add]

/-! ### The line breaks (R154, R156) -/

/-- The line breaks are newlines and nothing else: the other bytes stand as they were. -/
theorem filter_wrapLines {p : Byte → Bool} (hp : p newline = false) (j : Nat) (cs : List Byte) :
    (wrapLines j cs).filter p = cs.filter p := by
  induction cs generalizing j with
  | nil =>
    rw [wrapLines_nil]
    split <;> simp [hp]
  | cons c cs ih =>
    rw [wrapLines_cons]
    split <;> simp [List.filter_cons, hp, ih]

/-- The characters behind a beginning are wrapped from the column where the beginning ends. -/
theorem wrapLines_append (j : Nat) (as bs : List Byte) :
    ∃ p, wrapLines j (as ++ bs) = p ++ wrapLines (j + as.length) bs := by
  induction as generalizing j with
  | nil => exact ⟨[], rfl⟩
  | cons a as ih =>
    obtain ⟨p, hp⟩ := ih (j + 1)
    have hlen : j + (a :: as).length = j + 1 + as.length := by simp; omega
    rw [List.cons_append, wrapLines_cons, hp, hlen]
    split
    · exact ⟨a :: newline :: p, rfl⟩
    · exact ⟨a :: p, rfl⟩

/-- Characters that do not reach the end of the line are closed by one newline. -/
theorem wrapLines_short {j : Nat} {cs : List Byte} (hj : 0 < j + cs.length) (h : j + cs.length < 76) :
    wrapLines j cs = cs ++ [newline] := by
  induction cs generalizing j with
  | nil =>
    rw [wrapLines_nil, if_neg (by simp at hj h; omega)]
    rfl
  | cons c cs ih =>
    rw [List.length_cons] at h
    rw [wrapLines_cons, if_neg (by omega), ih (by omega) (by omega)]
    rfl

/-- Characters that fill the line are closed by one newline, and the next line starts. -/
theorem wrapLines_full {j : Nat} {l : List Byte} (cs : List Byte) (hl : l ≠ []) (h : j + l.length = 76) :
    wrapLines j (l ++ cs) = l ++ newline :: wrapLines 0 cs := by
  induction l generalizing j with
  | nil => exact absurd rfl hl
  | cons c l ih =>
    rw [List.length_cons] at h
    rw [List.cons_append, wrapLines_cons]
    cases l with
    | nil =>
      obtain rfl : j = 75 := by simpa using h
      simp [wrapLines_congr cs (show 76 % 76 = 0 % 76 from rfl)]
    | cons d l =>
      rw [if_neg (by simp at h; omega), ih (by simp) (by omega)]
      rfl

/-- The lines into which the characters `cs` of a session are broken (R154). -/
structure BreaksInto (cs : List Byte) (lines : List (List Byte)) : Prop where
  /-- the output is the lines, each ended by a newline -/
  output : wrapLines 0 cs = lines.flatMap (fun l => l ++ [newline])
  /-- the lines hold the characters in their order -/
  chars : lines.flatten = cs
  /-- there are `ceil(N/76)` lines -/
  number : lines.length = (cs.length + 75) / 76
  /-- no line is empty or too long -/
  lengths : ∀ l ∈ lines, 1 ≤ l.length ∧ l.length ≤ 76
  /-- all but the last are full -/
  full : ∀ l ∈ lines.dropLast, l.length = 76

theorem breaksInto_nil : BreaksInto [] [] := ⟨rfl, rfl, rfl, by simp, by simp⟩

theorem breaksInto_singleton {cs : List Byte} (h0 : 0 < cs.length) (h : cs.length < 76) : BreaksInto cs [cs] where
  output := by simpa using wrapLines_short (by omega) (show 0 + cs.length < 76 by omega)
  chars := by simp
  number := by rw [List.length_singleton]; omega
  lengths := by simpa using ⟨h0, h.le⟩
  full := by simp

theorem BreaksInto.cons {l cs : List Byte} {lines : List (List Byte)} (h : BreaksInto cs lines) (hl : l.length = 76) :
    BreaksInto (l ++ cs) (l :: lines) where
  output := by
    rw [wrapLines_full cs (List.ne_nil_of_length_pos (by omega)) (by omega), h.output]
    simp
  chars := by rw [List.flatten_cons, h.chars]
  number := by
    rw [List.length_cons, h.number, List.length_append]
    omega
  lengths := by
    rintro m (_ | ⟨_, hm⟩)
    · omega
    · exact h.lengths m hm
  full := by
    intro m hm
    cases lines with
    | nil => cases hm
    | cons l' lines =>
      rcases List.mem_cons.mp hm with rfl | hm
      · exact hl
      · exact h.full m hm

/-- The characters of a session are broken 76 at a time, as long as there are so many (R154). -/
theorem exists_breaksInto (cs : List Byte) : ∃ lines, BreaksInto cs lines := by
  by_cases h : 76 ≤ cs.length
  · obtain ⟨lines, hlines⟩ := exists_breaksInto (cs.drop 76)
    refine ⟨cs.take 76 :: lines, ?_⟩
    simpa using hlines.cons (List.length_take_of_le h)
  · cases cs with
    | nil => exact ⟨[], breaksInto_nil⟩
    | cons c cs => exact ⟨_, breaksInto_singleton (Nat.succ_pos _) (Nat.lt_of_not_le h)⟩
termination_by cs.length
decreasing_by rw [List.length_drop]; omega

/-- Settles O49: the lines into which the characters of the session function are broken. -/
theorem lineWrapping : Obligations.LineWrapping := by
  intro s t S out kb ki hrun ho
  obtain ⟨lines, hout, hchars, hnumber, hlengths, hfull⟩ := exists_breaksInto (encodeChars kb.toNat ki.toNat 0 S)
  refine ⟨lines, (encodeRun_output hrun ho).trans hout, ?_, ?_, fun l hl => ⟨fun hn => ?_, hlengths l hl⟩, hfull⟩
  · rw [hchars, encodeChars_length]
  · rw [hchars, hnumber]
  · exact newline_not_mem_encodeChars kb.toNat ki.toNat 0 S (hchars ▸ List.mem_flatten_of_mem hl hn)

/-! ### The newlines (R151) -/

theorem wrapLines_eq_nil_iff {j : Nat} {cs : List Byte} : wrapLines j cs = [] ↔ cs = [] ∧ j % 76 = 0 := by
  cases cs with
  | nil =>
    rw [wrapLines_nil]
    split <;> simp [*]
  | cons c cs =>
    rw [wrapLines_cons]
    split <;> simp

/-- Whatever stands on the line at the end is closed by a newline. -/
theorem wrapLines_ends {j : Nat} {cs : List Byte} (h : wrapLines j cs ≠ []) : ∃ p, wrapLines j cs = p ++ [newline] := by
  induction cs generalizing j with
  | nil =>
    rw [wrapLines_nil] at h ⊢
    split at h
    · exact absurd rfl h
    · rename_i hj
      exact ⟨[], by simp [hj]⟩
  | cons c cs ih =>
    by_cases hw : wrapLines (j + 1) cs = []
    · obtain ⟨rfl, hj⟩ := wrapLines_eq_nil_iff.mp hw
      exact ⟨[c], by simp [wrapLines_cons, wrapLines_nil, hj]⟩
    · obtain ⟨p, hp⟩ := ih hw
      rw [wrapLines_cons, hp]
      split
      · exact ⟨c :: newline :: p, rfl⟩
      · exact ⟨c :: p, rfl⟩

/-- Two bytes of which at most one is a newline. -/
def NotBothNewline (a b : Byte) : Prop := a ≠ newline ∨ b ≠ newline

/-- Behind a byte that is a newline exactly at the start of a line, no two newlines follow each other. -/
theorem isChain_wrapLines {x : Byte} {j : Nat} {cs : List Byte} (hx : x = newline → j % 76 = 0) (hcs : newline ∉ cs) :
    (x :: wrapLines j cs).IsChain NotBothNewline := by
  induction cs generalizing x j with
  | nil =>
    rw [wrapLines_nil]
    split
    · exact .singleton x
    · rename_i hj
      exact .cons_cons (.inl fun h => hj (hx h)) (.singleton newline)
  | cons c cs ih =>
    obtain ⟨hc, hcs⟩ := List.ne_and_not_mem_of_not_mem_cons hcs
    rw [wrapLines_cons]
    split
    · rename_i hj
      exact .cons_cons (.inr hc.symm) (.cons_cons (.inl hc.symm) (ih (fun _ => hj) hcs))
    · exact .cons_cons (.inr hc.symm) (ih (fun h => absurd h.symm hc) hcs)

theorem not_isChain_newline_newline (p q : List Byte) : ¬ (p ++ newline :: newline :: q).IsChain NotBothNewline := by
  intro h
  have h2 : (newline :: newline :: q).IsChain NotBothNewline := h.right_of_append
  rcases h2.rel with h | h <;> exact h rfl

theorem encodeFunction_eq_nil_iff {S : List Byte} {kb ki : Sextet} : encodeFunction S kb ki = [] ↔ S = [] := by
  rw [encodeFunction, wrapLines_eq_nil_iff, ← List.length_eq_zero_iff, encodeChars_length, ← List.length_eq_zero_iff]
  omega

theorem isChain_encodeFunction (S : List Byte) (kb ki : Sextet) :
    (newline :: encodeFunction S kb ki).IsChain NotBothNewline :=
  isChain_wrapLines (fun _ => Nat.zero_mod 76) (newline_not_mem_encodeChars kb.toNat ki.toNat 0 S)

theorem encodeFunction_ne_newline_newline (S : List Byte) (kb ki : Sextet) (p q : List Byte) :
    encodeFunction S kb ki ≠ p ++ [newline, newline] ++ q := by
  intro h
  refine not_isChain_newline_newline (newline :: p) q ?_
  simpa [h] using isChain_encodeFunction S kb ki

theorem encodeFunction_ne_newline_cons (S : List Byte) (kb ki : Sextet) (q : List Byte) :
    encodeFunction S kb ki ≠ newline :: q := by
  intro h
  refine not_isChain_newline_newline [] q ?_
  simpa [h] using isChain_encodeFunction S kb ki

/-- The output that is not empty ends with one newline: the byte before it is there and is none. -/
theorem encodeFunction_ends {S : List Byte} {kb ki : Sextet} (h : encodeFunction S kb ki ≠ []) :
    ∃ p c, encodeFunction S kb ki = p ++ [c, newline] ∧ c ≠ newline := by
  obtain ⟨p, hp⟩ : ∃ p, encodeFunction S kb ki = p ++ [newline] := wrapLines_ends h
  rcases List.eq_nil_or_concat p with rfl | ⟨p, c, rfl⟩
  · exact absurd hp (encodeFunction_ne_newline_cons S kb ki [])
  · refine ⟨p, c, by simpa using hp, ?_⟩
    rintro rfl
    exact encodeFunction_ne_newline_newline S kb ki p [] (by simpa using hp)

/-- Settles O50. -/
theorem finalNewline : Obligations.FinalNewline := by
  intro s t S out kb ki hrun ho
  obtain rfl := encodeRun_output hrun ho
  exact ⟨encodeFunction_eq_nil_iff, encodeFunction_ends, encodeFunction_ne_newline_newline S kb ki,
    encodeFunction_ne_newline_cons S kb ki⟩

/-! ### The alphabet and the markers (R157) -/

theorem mem_encodeFunction {S : List Byte} {kb ki : Sextet} {c : Byte} (h : c ∈ encodeFunction S kb ki) :
    (∃ v, c = alpha v) ∨ c = padChar ∨ c = newline := by
  by_cases hc : c = newline
  · exact .inr (.inr hc)
  · have hmem : c ∈ (encodeFunction S kb ki).filter (fun d => d ≠ newline) := List.mem_filter.mpr ⟨h, by simpa using hc⟩
    rw [encodeFunction, filter_wrapLines (by simp)] at hmem
    rcases alpha_or_pad_of_mem_encodeChars (List.mem_of_mem_filter hmem) with hv | hp
    · exact .inl hv
    · exact .inr (.inl hp)

theorem count_pad_encodeFunction (S : List Byte) (kb ki : Sextet) :
    (encodeFunction S kb ki).count padChar = (3 - S.length % 3) % 3 := by
  rw [← count_pad_encodeChars kb.toNat ki.toNat 0 S, encodeFunction, List.count_eq_length_filter,
    List.count_eq_length_filter, filter_wrapLines (by decide)]

/-- Fewer than four characters that end a block end their line, which a newline closes. -/
theorem wrapLines_tail {j : Nat} {cs : List Byte} (h0 : 0 < cs.length) (h4 : cs.length < 4) (hj : 4 ∣ j + cs.length) :
    wrapLines j cs = cs ++ [newline] := by
  rw [wrapLines_congr cs (Nat.mod_mod j 76).symm]
  by_cases h : j % 76 + cs.length = 76
  · simpa [wrapLines_nil] using wrapLines_full [] (List.ne_nil_of_length_pos h0) h
  · exact wrapLines_short (by omega) (by omega)

/-- The markers are the last characters before the final newline. -/
theorem encodeFunction_pad_suffix {S : List Byte} (kb ki : Sextet) (h : S.length % 3 ≠ 0) :
    ∃ p, encodeFunction S kb ki = p ++ (List.replicate ((3 - S.length % 3) % 3) padChar ++ [newline]) := by
  obtain ⟨vs, hvs⟩ := encodeChars_eq_alpha_append_pad kb.toNat ki.toNat 0 S
  have hlen := encodeChars_length kb.toNat ki.toNat 0 S
  rw [hvs, List.length_append] at hlen
  obtain ⟨p, hp⟩ := wrapLines_append 0 (vs.map alpha) (List.replicate ((3 - S.length % 3) % 3) padChar)
  refine ⟨p, ?_⟩
  rw [encodeFunction, hvs, hp, wrapLines_tail (by simp; omega) (by simp; omega) (by omega)]

/-- Up to 18 blocks stand on one line, which one newline closes. -/
theorem encodeFunction_length_of_short {S : List Byte} (kb ki : Sextet) (h0 : 0 < S.length) (h : S.length ≤ 54) :
    (encodeFunction S kb ki).length = 4 * ((S.length + 2) / 3) + 1 := by
  have hlen := encodeChars_length kb.toNat ki.toNat 0 S
  rw [encodeFunction, wrapLines_short (by omega) (by omega), List.length_append, hlen, List.length_singleton]

/-- Settles O51. -/
theorem alphabetClosureAndPadding : Obligations.AlphabetClosureAndPadding := by
  intro s t S out kb ki hrun ho
  obtain rfl := encodeRun_output hrun ho
  have hcount := count_pad_encodeFunction S kb ki
  have hsuffix := encodeFunction_pad_suffix (S := S) kb ki
  refine ⟨fun c => mem_encodeFunction, fun h => ?_, fun h => ?_, fun h => ?_, fun h => ?_⟩
  · rw [h] at hcount hsuffix
    exact ⟨hcount, hsuffix (by decide)⟩
  · rw [h] at hcount hsuffix
    exact ⟨hcount, hsuffix (by decide)⟩
  · rw [h] at hcount
    exact hcount
  · rw [encodeFunction_length_of_short kb ki (by omega) (by omega)]
    omega

end Sys2Proof.Machine

/-! PROOFS. A decode session is the function of R190, with its faults, under every `WS_SET`. A byte of `WS_SET` leaves the session
where it is; a significant character joins those that wait in QUAD, and the fourth decodes their block, as the function reads its
input. The function reads its positions only modulo 64, so what it decodes after a block is what it decodes from the key that the
block leaves. -/

namespace Sys2Proof.Machine

open Sys2Proof.Safety

/-! ### The session function reads its positions modulo 64 -/

theorem unkeyedSym_congr {kb kb' ki j j' : Nat} (h : (kb + j * ki) % 64 = (kb' + j' * ki) % 64) (i : Nat) (v : Sextet) :
    unkeyedSym kb ki (j + i) v = unkeyedSym kb' ki (j' + i) v := by
  unfold unkeyedSym
  apply fmod64_congr
  push_cast
  rw [Int.add_mul, Int.add_mul]
  omega

theorem blockBytes_congr {kb kb' ki j j' : Nat} (h : (kb + j * ki) % 64 = (kb' + j' * ki) % 64) (v : SymBlock) :
    blockBytes kb ki j v = blockBytes kb' ki j' v := by
  have hk := unkeyedSym_congr h
  have h0 : unkeyedSym kb ki j = unkeyedSym kb' ki j' := funext (hk 0)
  simp only [blockBytes, h0, hk 1, hk 2, hk 3]

/-! ### The blocks of the session function (R190) -/

/-- The values of the four characters of a block. -/
def significantValues (q : CharBlock) : SymBlock :=
  { s0 := significantValue q.c0, s1 := significantValue q.c1, s2 := significantValue q.c2, s3 := significantValue q.c3 }

section
variable {ws : WsSet} {kb ki j : Nat} {q : CharBlock} {rest : List Byte}

theorem decodeBlocks_of_invalid {c : Byte} (h : firstInvalid ws q = some c) :
    decodeBlocks ws kb ki j (q.c0 :: q.c1 :: q.c2 :: q.c3 :: rest) = ([], .fault .eChar c) := by
  rw [decodeBlocks, h]

theorem decodeBlocks_of_many_markers (h : firstInvalid ws q = none) (hm : 2 < markerCount q) :
    decodeBlocks ws kb ki j (q.c0 :: q.c1 :: q.c2 :: q.c3 :: rest) =
      ([], .fault .ePad (BitVec.ofNat 8 (markerCount q))) := by
  simp [decodeBlocks, h, hm]

theorem decodeBlocks_of_good (h : firstInvalid ws q = none) (hm : ¬ 2 < markerCount q) :
    decodeBlocks ws kb ki j (q.c0 :: q.c1 :: q.c2 :: q.c3 :: rest) =
      ((blockBytes kb ki j (significantValues q)).take (3 - markerCount q) ++ (decodeBlocks ws kb ki (j + 4) rest).1,
        (decodeBlocks ws kb ki (j + 4) rest).2) := by
  simp [decodeBlocks, h, hm, significantValues]

/-- Fewer than four characters are no block. -/
theorem decodeBlocks_of_short {cs : List Byte} (h0 : cs ≠ []) (h : cs.length < 4) :
    decodeBlocks ws kb ki j cs = ([], .fault .eLen (BitVec.ofNat 8 cs.length)) := by
  match cs, h with
  | [], _ => exact absurd rfl h0
  | [_], _ => rfl
  | [_, _], _ => rfl
  | [_, _, _], _ => rfl
  | _ :: _ :: _ :: _ :: _, h => simp at h; omega

end

theorem decodeBlocks_congr {ws : WsSet} {kb kb' ki : Nat} : ∀ (cs : List Byte) {j j' : Nat},
    (kb + j * ki) % 64 = (kb' + j' * ki) % 64 → decodeBlocks ws kb ki j cs = decodeBlocks ws kb' ki j' cs
  | [], _, _, _ => rfl
  | [_], _, _, _ => rfl
  | [_, _], _, _, _ => rfl
  | [_, _, _], _, _, _ => rfl
  | x :: y :: z :: w :: cs, j, j', h => by
    have h' := offset_add_congr h 4
    simp only [decodeBlocks, blockBytes_congr h, decodeBlocks_congr cs h']

/-! ### `DecodeBlock` on significant characters (R176) -/

theorem significant_of_firstInvalid_eq_none {ws : WsSet} {q : CharBlock} {d : Byte} (h : firstInvalid ws q = none)
    (hd : d ∈ [q.c0, q.c1, q.c2, q.c3]) (hw : d ∉ ws) : d = padChar ∨ (symIndex d).isSome = true := by
  have hi := List.find?_eq_none.mp h d hd
  simp only [beq_iff_eq, classify_inv_iff, not_and] at hi
  rw [← Option.ne_none_iff_isSome]
  exact or_iff_not_imp_left.mpr (hi hw)

section
variable {s : State} {q : CharBlock} (hq : s.quad.chars = some q)
include hq

theorem decodeBlock_of_invalid {c : Byte} (h : firstInvalid s.wsSet q = some c) :
    decodeBlock s = .next (raiseFault .eChar c s) := by
  have hc : classify s.wsSet c = .inv := by simpa using List.find?_some h
  have hv : blockValues s.wsSet q = none :=
    blockValues_eq_none (List.mem_of_find?_eq_some h) (charValue_eq_none_iff.mpr (.inr hc))
  simp [decodeBlock, hq, hv, h]

theorem decodeBlock_of_valid (hw : ∀ d ∈ [q.c0, q.c1, q.c2, q.c3], d ∉ s.wsSet) (h : firstInvalid s.wsSet q = none) :
    decodeBlock s =
      if 2 < s.pad.toNat then .next (raiseFault .ePad (s.pad.setWidth 8) s)
      else .next (decodeGoodBlock (significantValues q) s) := by
  have hv : blockValues s.wsSet q = some (significantValues q) :=
    blockValues_of_significant fun d hd => ⟨hw d hd, significant_of_firstInvalid_eq_none h hd (hw d hd)⟩
  simp [decodeBlock, hq, hv]

end

/-! ### The steps of a decode session -/

/-- A byte of `WS_SET` is accepted and ignored, with or without a row of the table (R173). -/
theorem runWord_whitespace {s : State} {c : Byte} (hp : s.phase = .dec) (hc : c ∈ s.wsSet) :
    runWord (dataBeat c) s = .next s := by
  have hd : decode s.wsSet s.phase (dataBeat c) = decodeChar s.wsSet c := by rw [hp, decode_dataBeat_dec]
  simp only [decodeChar, classify_of_mem hc] at hd
  cases hi : wsInstr? c with
  | some i =>
    rw [hi] at hd
    rw [runWord_of_instr hd, exec_of_char (wsInstr?_char hi), if_pos rfl]
  | none =>
    rw [hi] at hd
    exact runWord_of_wsWithoutRow hd

theorem step_whitespace {s : State} {c : Byte} {rest : List Offer} (hr : s.resetLine = false) (hp : s.phase = .dec)
    (ho : s.offers = .word (dataBeat c) :: rest) (hc : c ∈ s.wsSet) : step s = .next { s with offers := rest } :=
  (step_beat hr (.inr hp) ho).trans (runWord_whitespace (s := { s with offers := rest }) hp hc)

theorem step_significant {s : State} {c : Byte} {rest : List Offer} (hr : s.resetLine = false) (hp : s.phase = .dec)
    (ho : s.offers = .word (dataBeat c) :: rest) (hc : c ∉ s.wsSet) : step s = storeChar c { s with offers := rest } :=
  (step_beat hr (.inr hp) ho).trans (runWord_significant (s := { s with offers := rest }) hp hc)

theorem step_decEos {s : State} {rest : List Offer} (hr : s.resetLine = false) (hp : s.phase = .dec)
    (ho : s.offers = .word eosBeat :: rest) : step s = finishDecode { s with offers := rest } := by
  rw [step_beat hr (.inr hp) ho]
  refine (runWord_of_instr (i := .decEos) ?_).trans (inPhase_of_eq (s := { s with offers := rest }) hp _)
  exact hp ▸ decode_eosBeat_dec s.wsSet

/-- In phase FAULT no word is accepted, and the steps that are left over change nothing (R218, R247). -/
theorem run_of_fault {s : State} (hp : s.phase = .fault) (hr : s.resetLine = false)
    (ho : ∀ o ∈ s.offers, ∃ w, o = .word (.beat w)) (n : Nat) : Host.Core.run Sys2Proof.core n s = .next s := by
  have hn : nextOffer s = none := by
    refine takeFirst_eq_none.mpr fun o h => ?_
    obtain ⟨w, rfl⟩ := ho o h
    simp [accepts, hp]
  induction n with
  | zero => rfl
  | succ n ih => rw [run_succ (step_of_none hr hn), ih]

/-! ### The run of a decode session -/

/-- QUAD with the characters `pre` in its first slots. -/
def quadOf (pre : List Byte) : QuadBuf := { c0 := pre[0]?, c1 := pre[1]?, c2 := pre[2]?, c3 := pre[3]? }

theorem quadOf_write {pre : List Byte} (h : pre.length < 4) (c : Byte) :
    (quadOf pre).write (BitVec.ofNat 2 pre.length) c = quadOf (pre ++ [c]) := by
  match pre, h with
  | [], _ => rfl
  | [_], _ => rfl
  | [_, _], _ => rfl
  | [_, _, _], _ => rfl
  | _ :: _ :: _ :: _ :: _, h => simp at h; omega

/-- The core in a decode session, with the characters `pre` of a block collected. -/
structure Collecting (s : State) (pre : List Byte) : Prop where
  /-- RESET is not asserted -/
  noReset : s.resetLine = false
  /-- PHASE = DEC -/
  phase : s.phase = .dec
  /-- the block is not complete -/
  short : pre.length < 4
  /-- the characters stand in QUAD -/
  quad : s.quad = quadOf pre
  /-- NCH counts them -/
  nch : s.nch = BitVec.ofNat 2 pre.length
  /-- PAD counts the markers among them -/
  pad : s.pad.toNat = pre.count padChar
  /-- none of them is in `WS_SET` -/
  significant : ∀ c ∈ pre, c ∉ s.wsSet
  /-- the session has not ended, and there is no fault code and no detail -/
  clean : s.done = false ∧ s.err = .none ∧ s.errInfo = 0#byteBits

/-- What a decode session leaves behind that had the output and the end `r` still ahead in `s`. -/
structure DecodeEnds (s t : State) (r : List Byte × SessionEnd) : Prop where
  /-- the rest of the output stands at the tail of OUTQ -/
  outq : t.outq = s.outq ++ r.1
  /-- the session has ended so -/
  ended : EndsAs t r.2
  /-- the host has taken no byte -/
  taken : t.taken = s.taken
  /-- `WS_SET` is as it was -/
  wsSet : t.wsSet = s.wsSet

theorem collect_pad_count {s : State} {pre : List Byte} (c : Byte) (hlen : pre.length < 4)
    (h : s.pad.toNat = pre.count padChar) : (collect c s).pad.toNat = (pre ++ [c]).count padChar := by
  have hle : pre.count padChar ≤ pre.length := List.count_le_length
  rw [collect_pad, List.count_append]
  split
  · rename_i hc
    rw [hc, List.count_singleton_self, BitVec.toNat_add, h]
    exact Nat.mod_eq_of_lt (by simp; omega)
  · rename_i hc
    rw [h, List.count_singleton, if_neg (by simpa using hc), Nat.add_zero]

section
variable {s : State} {pre : List Byte} (h : Collecting s pre)
include h

theorem Collecting.offering (rest : List Offer) : Collecting { s with offers := rest } pre := by
  obtain ⟨hr, hp, hs, hq, hn, hpad, hsig, he⟩ := h
  exact ⟨hr, hp, hs, hq, hn, hpad, hsig, he⟩

theorem Collecting.nch_toNat : s.nch.toNat = pre.length := by
  rw [h.nch, BitVec.toNat_ofNat]
  exact Nat.mod_eq_of_lt h.short

/-- EOS ends the session normally on a block boundary and with E_LEN inside a block (R187, R188). -/
theorem finishDecode_ends :
    ∃ t, finishDecode s = .next t ∧ DecodeEnds s t (decodeBlocks s.wsSet s.k.toNat s.inc.toNat 0 pre) := by
  obtain ⟨hdone, herr, hinfo⟩ := h.clean
  have hnat := h.nch_toNat
  by_cases hpre : pre = []
  · subst hpre
    exact ⟨_, if_pos h.nch, by simp [decodeBlocks], ⟨rfl, rfl, herr, hinfo⟩, rfl, rfl⟩
  · have hlen : 0 < pre.length := List.length_pos_of_ne_nil hpre
    have hnch : s.nch ≠ 0#2 := by
      intro h0
      rw [h0] at hnat
      exact absurd hnat hlen.ne
    have hcode : s.nch.setWidth 8 = BitVec.ofNat 8 pre.length := by
      rw [← hnat, BitVec.ofNat_toNat]
    rw [decodeBlocks_of_short hpre h.short]
    exact ⟨_, if_neg hnch, by simp, ⟨rfl, hdone, rfl, hcode⟩, rfl, rfl⟩

/-- A significant character that does not complete the block is stored (R174). -/
theorem storeChar_collects {c : Byte} (hc : c ∉ s.wsSet) (hlen : pre.length < 3) :
    storeChar c s = .next { collect c s with nch := s.nch + 1#2 } ∧
      Collecting { collect c s with nch := s.nch + 1#2 } (pre ++ [c]) := by
  have hnat := h.nch_toNat
  obtain ⟨hr, hp, hs, hq, hn, hpad, hsig, he⟩ := h
  have hnch : s.nch ≠ 3#2 := by
    intro h3
    rw [h3] at hnat
    exact absurd hnat hlen.ne'
  refine ⟨(storeChar_eq _ _).trans (if_neg hnch), hr, hp, ?_, ?_, ?_, collect_pad_count c hs hpad, ?_, he⟩
  · rw [List.length_append, List.length_singleton]
    omega
  · simp only [collect_quad, hq, hn, quadOf_write hs]
  · simp [hn, BitVec.ofNat_add]
  · simpa [or_imp, forall_and, hc] using hsig

end

/-- The state after a block without an invalid character and with at most two markers, from the state in which its fourth
character arrives (R179 to R182). -/
def afterGoodBlock (q : CharBlock) (s : State) : State :=
  { s with
    k := keyAfterBlock s.k.toNat s.inc.toNat
    quad := QuadBuf.empty, nch := 0#2, pad := 0#3
    outq := s.outq ++ (blockBytes s.k.toNat s.inc.toNat 0 (significantValues q)).take (3 - markerCount q) }

theorem afterGoodBlock_collecting {s : State} {pre : List Byte} (h : Collecting s pre) (q : CharBlock) :
    Collecting (afterGoodBlock q s) [] :=
  ⟨h.noReset, h.phase, by simp, rfl, rfl, rfl, by simp, h.clean⟩

/-- The fourth character of a block: E_CHAR, E_PAD, or the block is decoded (R174, R176). -/
theorem storeChar_completes {s : State} {x y z c : Byte} {q : CharBlock} (h : Collecting s [x, y, z]) (hc : c ∉ s.wsSet)
    (hq : q = { c0 := x, c1 := y, c2 := z, c3 := c }) :
    (∃ d, firstInvalid s.wsSet q = some d ∧ storeChar c s = .next (raiseFault .eChar d (collect c s))) ∨
    (firstInvalid s.wsSet q = none ∧ 2 < markerCount q ∧
      storeChar c s = .next (raiseFault .ePad (BitVec.ofNat 8 (markerCount q)) (collect c s))) ∨
    (firstInvalid s.wsSet q = none ∧ ¬ 2 < markerCount q ∧ storeChar c s = .next (afterGoodBlock q s)) := by
  subst hq
  have hstore : storeChar c s = decodeBlock (collect c s) := (storeChar_eq _ _).trans (if_pos h.nch)
  have hchars := collect_fourth c h.nch (x := x) (y := y) (z := z) (by rw [h.quad]; rfl) (by rw [h.quad]; rfl)
    (by rw [h.quad]; rfl)
  have hpad := collect_pad_toNat c h.pad
  cases hi : firstInvalid s.wsSet { c0 := x, c1 := y, c2 := z, c3 := c } with
  | some d => exact .inl ⟨d, rfl, hstore.trans (decodeBlock_of_invalid hchars hi)⟩
  | none =>
    have hsig : ∀ d ∈ [x, y, z, c], d ∉ s.wsSet := by
      simpa [hc] using h.significant
    have hdec := hstore.trans (decodeBlock_of_valid hchars hsig hi)
    by_cases hm : 2 < markerCount { c0 := x, c1 := y, c2 := z, c3 := c }
    · rw [if_pos (hpad ▸ hm), ← BitVec.ofNat_toNat, hpad] at hdec
      exact .inr (.inl ⟨rfl, hm, hdec⟩)
    · rw [if_neg (hpad ▸ hm), decodeGoodBlock_eq, hpad] at hdec
      exact .inr (.inr ⟨rfl, hm, hdec⟩)

/-- What a session has emitted after a good block and emits from there is what it emits from before the block (R190). -/
theorem decodeEnds_of_afterGoodBlock {s t : State} {q : CharBlock} {cs : List Byte} (hi : firstInvalid s.wsSet q = none)
    (hm : ¬ 2 < markerCount q)
    (h : DecodeEnds (afterGoodBlock q s) t
      (decodeBlocks s.wsSet (keyAfterBlock s.k.toNat s.inc.toNat).toNat s.inc.toNat 0 cs)) :
    DecodeEnds s t (decodeBlocks s.wsSet s.k.toNat s.inc.toNat 0 (q.c0 :: q.c1 :: q.c2 :: q.c3 :: cs)) := by
  have hkey : ((keyAfterBlock s.k.toNat s.inc.toNat).toNat + 0 * s.inc.toNat) % 64 =
      (s.k.toNat + (0 + 4) * s.inc.toNat) % 64 := by
    simpa using keyAfterBlock_toNat_mod s.k s.inc
  obtain ⟨hout, hend, htak, hws⟩ := h
  rw [decodeBlocks_of_good hi hm, ← decodeBlocks_congr cs hkey]
  exact ⟨hout.trans (List.append_assoc ..), hend, htak, hws⟩

/-- A block that faults ends the session at once: the rest of the input stays offered (R247). -/
theorem run_raiseFault {s : State} {pre T : List Byte} {c info : Byte} {code : ErrCode} (n : Nat) (h : Collecting s pre)
    (hs : step s = .next (raiseFault code info (collect c { s with offers := sessionBeats T }))) :
    ∃ t, Host.Core.run Sys2Proof.core (n + 1) s = .next t ∧ DecodeEnds s t ([], .fault code info) := by
  have hrun := run_of_fault (s := raiseFault code info (collect c { s with offers := sessionBeats T })) rfl h.noReset
    (fun _ => sessionBeats_beat) n
  exact ⟨_, (run_succ hs).trans hrun, (List.append_nil _).symm, ⟨rfl, h.clean.1, rfl, rfl⟩, rfl, rfl⟩

/-- A decode session with characters collected, by one byte of the input at a time. -/
theorem decode_run (T : List Byte) : ∀ (s : State) (pre : List Byte), Collecting s pre → s.offers = sessionBeats T →
    ∃ t, Host.Core.run Sys2Proof.core (T.length + 1) s = .next t ∧
      DecodeEnds s t
        (decodeBlocks s.wsSet s.k.toNat s.inc.toNat 0 (pre ++ T.filter (fun c => c ∉ s.wsSet))) := by
  induction T with
  | nil =>
    intro s pre h ho
    obtain ⟨t, hf, hout, hend, htak, hws⟩ := finishDecode_ends (h.offering [])
    refine ⟨t, run_succ ((step_decEos h.noReset h.phase ho).trans hf), ?_⟩
    rw [List.filter_nil, List.append_nil]
    exact ⟨hout, hend, htak, hws⟩
  | cons c T ih =>
    intro s pre h ho
    by_cases hc : c ∈ s.wsSet
    · obtain ⟨t, hrun, hout, hend, htak, hws⟩ := ih _ pre (h.offering (sessionBeats T)) rfl
      refine ⟨t, (run_succ (step_whitespace h.noReset h.phase ho hc)).trans hrun, ?_⟩
      rw [List.filter_cons_of_neg (by simpa using hc)]
      exact ⟨hout, hend, htak, hws⟩
    rw [List.filter_cons_of_pos (by simpa using hc)]
    have hstep := step_significant h.noReset h.phase ho hc
    by_cases hlen : pre.length < 3
    · obtain ⟨hstore, hu⟩ := storeChar_collects (h.offering (sessionBeats T)) hc hlen
      obtain ⟨t, hrun, hout, hend, htak, hws⟩ := ih _ _ hu rfl
      refine ⟨t, (run_succ (hstep.trans hstore)).trans hrun, ?_⟩
      rw [List.append_cons]
      exact ⟨hout, hend, htak, hws⟩
    · obtain ⟨x, y, z, rfl⟩ : ∃ x y z, pre = [x, y, z] := List.length_eq_three.mp (by have := h.short; omega)
      obtain ⟨q, hq⟩ : ∃ q : CharBlock, q = { c0 := x, c1 := y, c2 := z, c3 := c } := ⟨_, rfl⟩
      have hchars : ∀ cs, [x, y, z] ++ c :: cs = q.c0 :: q.c1 :: q.c2 :: q.c3 :: cs := by
        intro cs
        rw [hq]
        rfl
      rw [hchars]
      rcases storeChar_completes (h.offering (sessionBeats T)) hc hq with
        ⟨d, hi, hstore⟩ | ⟨hi, hm, hstore⟩ | ⟨hi, hm, hstore⟩
      · rw [decodeBlocks_of_invalid hi]
        exact run_raiseFault _ h (hstep.trans hstore)
      · rw [decodeBlocks_of_many_markers hi hm]
        exact run_raiseFault _ h (hstep.trans hstore)
      · obtain ⟨t, hrun, hout, hend, htak, hws⟩ := ih _ [] (afterGoodBlock_collecting (h.offering (sessionBeats T)) q) rfl
        exact ⟨t, (run_succ (hstep.trans hstore)).trans hrun, decodeEnds_of_afterGoodBlock hi hm ⟨hout, hend, htak, hws⟩⟩

/-! ### Whole decode sessions -/

theorem decodeSessionStart_collecting (g : Background) (kb ki : Sextet) (S : List Byte) :
    Collecting (onto g (sessionStart .dec g.wsSet kb ki S)) [] :=
  ⟨rfl, rfl, by simp, rfl, rfl, rfl, by simp, rfl, rfl, rfl⟩

/-- A decode session runs to its end, with the output and the end that R190 gives. -/
theorem decodeRun_exists {s : State} {T : List Byte} {kb ki : Sextet}
    (h : ReadyFor s (sessionOffers (cmdWord false kb ki) T)) :
    ∃ t, DecodeRun s T kb ki t ∧ DecodeEnds s t (decodeFunction s.wsSet T kb ki) := by
  obtain ⟨t, hrun, hout, hend, htak, hws⟩ :=
    decode_run T _ [] (decodeSessionStart_collecting s.background kb ki T) rfl
  have hkb : (kb.setWidth 7).toNat = kb.toNat := BitVec.toNat_setWidth_of_le (by decide)
  refine ⟨t, ⟨h, (run_succ (step_command s.wsSet h)).trans hrun⟩, ?_⟩
  rw [decodeFunction, ← hkb]
  exact ⟨by simpa [onto, State.background, sessionStart, State.reset] using hout, hend, htak, hws⟩

/-- Whatever a decode session leads to is what R190 gives. -/
theorem decodeRun_ends {s t : State} {T : List Byte} {kb ki : Sextet} (h : DecodeRun s T kb ki t) :
    DecodeEnds s t (decodeFunction s.wsSet T kb ki) := by
  obtain ⟨t', ⟨-, hrun⟩, hends⟩ := decodeRun_exists h.1
  obtain rfl : t = t' := by
    injection h.2.symm.trans hrun
  exact hends

end Sys2Proof.Machine

/-! PROOFS. The keys. Decoding what was encoded, under the same keys, gives the input back block by block: the look-up undoes the
alphabet, the offsets cancel modulo 64, and the bytes of a block that its markers drop are the ones it lacks. The first two
characters of an output give the two keys away, since their offsets are the key base and the key base plus the increment. -/

namespace Sys2Proof.Machine

open Sys2Proof.Safety

/-! ### Decoding an encoded block -/

theorem significantValue_alpha (v : Sextet) : significantValue (alpha v) = v := by
  rw [significantValue, if_neg (alpha_ne_padChar v), symIndex_alpha]
  rfl

/-- The decoder takes off what the encoder put on at the same position (R129). -/
theorem unkeyedSym_keyedChar (kb ki j : Nat) (v : Sextet) :
    unkeyedSym kb ki j (significantValue (keyedChar kb ki j v)) = v := by
  rw [keyedChar, significantValue_alpha, unkeyedSym]
  have hv := Sextet.toNat_lt v
  apply BitVec.eq_of_toNat_eq
  zify
  rw [fmod64_toNat, fmod64_toNat]
  omega

theorem keyedChar_ne_padChar (kb ki j : Nat) (v : Sextet) : keyedChar kb ki j v ≠ padChar := alpha_ne_padChar _

theorem classify_ne_inv {ws : WsSet} {c : Byte} (h : (∃ v, c = alpha v) ∨ c = padChar) : classify ws c ≠ .inv := by
  intro hi
  obtain ⟨-, hp, hn⟩ := classify_inv_iff.mp hi
  rcases h with ⟨v, rfl⟩ | h
  · cases (symIndex_alpha v).symm.trans hn
  · exact hp h

/-- The four characters of an encoded block. -/
def encodedBlock (kb ki j m : Nat) (r : RawBlock) : CharBlock where
  c0 := keyedChar kb ki j (packSextets r).s0
  c1 := keyedChar kb ki (j + 1) (packSextets r).s1
  c2 := if m < 2 then padChar else keyedChar kb ki (j + 2) (packSextets r).s2
  c3 := if m < 3 then padChar else keyedChar kb ki (j + 3) (packSextets r).s3

theorem blockChars_eq_encodedBlock (kb ki j m : Nat) (r : RawBlock) :
    blockChars kb ki j m r =
      [(encodedBlock kb ki j m r).c0, (encodedBlock kb ki j m r).c1, (encodedBlock kb ki j m r).c2,
        (encodedBlock kb ki j m r).c3] := rfl

theorem alpha_or_pad_of_mem_blockChars {kb ki j m : Nat} {r : RawBlock} {c : Byte} (h : c ∈ blockChars kb ki j m r) :
    (∃ v, c = alpha v) ∨ c = padChar := by
  simp only [blockChars, List.mem_cons, List.not_mem_nil, or_false] at h
  rcases h with h | h | h | h
  · exact .inl ⟨_, h⟩
  · exact .inl ⟨_, h⟩
  · split at h
    · exact .inr h
    · exact .inl ⟨_, h⟩
  · split at h
    · exact .inr h
    · exact .inl ⟨_, h⟩

theorem firstInvalid_encodedBlock (ws : WsSet) (kb ki j m : Nat) (r : RawBlock) :
    firstInvalid ws (encodedBlock kb ki j m r) = none := by
  refine List.find?_eq_none.mpr fun c hc => ?_
  rw [beq_iff_eq]
  exact classify_ne_inv (alpha_or_pad_of_mem_blockChars (blockChars_eq_encodedBlock kb ki j m r ▸ hc))

section
variable {m : Nat} (h1 : 1 ≤ m) (h3 : m ≤ 3)
include h1 h3

/-- An encoded block has a marker for each byte that it lacks (R148). -/
theorem markerCount_encodedBlock (kb ki j : Nat) (r : RawBlock) : markerCount (encodedBlock kb ki j m r) = 3 - m := by
  have hk := keyedChar_ne_padChar
  obtain rfl | rfl | rfl : m = 1 ∨ m = 2 ∨ m = 3 := by omega
  · simp [markerCount, encodedBlock, hk]
  · simp [markerCount, encodedBlock, hk]
  · simp [markerCount, encodedBlock, hk]

/-- The bytes of an encoded block before those that its markers drop (R181). -/
theorem blockBytes_encodedBlock (kb ki j : Nat) (r : RawBlock) :
    (blockBytes kb ki j (significantValues (encodedBlock kb ki j m r))).take m = [r.b0, r.b1, r.b2].take m := by
  have hr := unpackBytes_packSextets r
  have hb0 := congrArg RawBlock.b0 hr
  have hb1 := congrArg RawBlock.b1 hr
  obtain rfl | rfl | rfl : m = 1 ∨ m = 2 ∨ m = 3 := by omega
  · simpa [blockBytes, significantValues, encodedBlock, unkeyedSym_keyedChar, unpackBytes] using hb0
  · simpa [blockBytes, significantValues, encodedBlock, unkeyedSym_keyedChar, unpackBytes] using ⟨hb0, hb1⟩
  · simp [blockBytes, significantValues, encodedBlock, unkeyedSym_keyedChar, hr]

theorem decodeBlocks_blockChars (ws : WsSet) (kb ki j : Nat) (r : RawBlock) (rest : List Byte) :
    decodeBlocks ws kb ki j (blockChars kb ki j m r ++ rest) =
      ([r.b0, r.b1, r.b2].take m ++ (decodeBlocks ws kb ki (j + 4) rest).1, (decodeBlocks ws kb ki (j + 4) rest).2) := by
  have hm := markerCount_encodedBlock h1 h3 kb ki j r
  have hgood := decodeBlocks_of_good (kb := kb) (ki := ki) (j := j) (rest := rest)
    (firstInvalid_encodedBlock ws kb ki j m r) (by omega)
  rw [hm, Nat.sub_sub_self h3, blockBytes_encodedBlock h1 h3] at hgood
  exact hgood

end

/-! ### The round trip (R191) -/

theorem decodeBlocks_encodeChars (ws : WsSet) (kb ki : Nat) : ∀ (j : Nat) (S : List Byte),
    decodeBlocks ws kb ki j (encodeChars kb ki j S) = (S, .done)
  | _, [] => rfl
  | j, [x] => by
    rw [encodeChars, ← List.append_nil (blockChars ..), decodeBlocks_blockChars (by decide) (by decide)]
    rfl
  | j, [x, y] => by
    rw [encodeChars, ← List.append_nil (blockChars ..), decodeBlocks_blockChars (by decide) (by decide)]
    rfl
  | j, x :: y :: z :: S => by
    rw [encodeChars, decodeBlocks_blockChars (by decide) (by decide), decodeBlocks_encodeChars ws kb ki (j + 4) S]
    rfl

/-- Under a legal `WS_SET` the decoder removes the line breaks and nothing else (R8, R190). -/
theorem filter_encodeFunction {ws : WsSet} (h : Config.wsLegal ws = true) (S : List Byte) (kb ki : Sextet) :
    (encodeFunction S kb ki).filter (fun c => c ∉ ws) = encodeChars kb.toNat ki.toNat 0 S := by
  rw [encodeFunction, filter_wrapLines (by simpa using newline_mem_of_legal h), List.filter_eq_self]
  intro c hc
  rcases alpha_or_pad_of_mem_encodeChars hc with ⟨v, rfl⟩ | rfl
  · simpa using alpha_not_mem_of_legal h v
  · simpa using padChar_not_mem_of_legal h

theorem decodeFunction_encodeFunction {ws : WsSet} (h : Config.wsLegal ws = true) (S : List Byte) (kb ki : Sextet) :
    decodeFunction ws (encodeFunction S kb ki) kb ki = (S, .done) := by
  rw [decodeFunction, filter_encodeFunction h, decodeBlocks_encodeChars]

/-- A decode session of what an encode session emitted, under the same keys, emits the input. -/
theorem decodeRun_encodeFunction {s t : State} {S : List Byte} {kb ki : Sextet} (h : Config.wsLegal s.wsSet = true)
    (hrun : DecodeRun s (encodeFunction S kb ki) kb ki t) : t.outq = s.outq ++ S := by
  have hout := (decodeRun_ends hrun).outq
  rwa [decodeFunction_encodeFunction h] at hout

/-! ### The first two characters (R158) -/

/-- The first two characters of a session, whatever the keys, carry the first two sextets of its first block. -/
theorem encodeFunction_take_two {S : List Byte} (h : S ≠ []) : ∃ v w : Sextet, ∀ kb ki : Sextet,
    (encodeFunction S kb ki).take 2 = [keyedChar kb.toNat ki.toNat 0 v, keyedChar kb.toNat ki.toNat 1 w] := by
  match S, h with
  | [], h => exact absurd rfl h
  | [_], _ => exact ⟨_, _, fun _ _ => rfl⟩
  | [_, _], _ => exact ⟨_, _, fun _ _ => rfl⟩
  | _ :: _ :: _ :: _, _ => exact ⟨_, _, fun _ _ => rfl⟩

/-- One character under two keys is the same only where the offsets are. -/
theorem keyedChar_inj {kb ki kb' ki' j : Nat} {v : Sextet} (h : keyedChar kb ki j v = keyedChar kb' ki' j v) :
    (kb + j * ki) % 64 = (kb' + j * ki') % 64 := by
  have hf := congrArg (fun u : Sextet => (u.toNat : Int)) (alpha_injective h)
  simp only [fmod64_toNat] at hf
  have hz : (((kb + j * ki : Nat) : Int)) % 64 = ((kb' + j * ki' : Nat) : Int) % 64 := by
    push_cast
    omega
  exact_mod_cast hz

/-- Outputs of one input that agree in their first two characters have the same keys. -/
theorem keys_eq_of_take_two {S : List Byte} {kb ki kb' ki' : Sextet} (hS : S ≠ [])
    (h : (encodeFunction S kb ki).take 2 = (encodeFunction S kb' ki').take 2) : (kb, ki) = (kb', ki') := by
  obtain ⟨v, w, htwo⟩ := encodeFunction_take_two hS
  rw [htwo, htwo] at h
  injection h with h0 h
  injection h with h1 _
  have hkb := keyedChar_inj h0
  have hki := keyedChar_inj h1
  have hlt := And.intro (Sextet.toNat_lt kb) (Sextet.toNat_lt kb')
  have hlt' := And.intro (Sextet.toNat_lt ki) (Sextet.toNat_lt ki')
  have hb : kb.toNat = kb'.toNat := by omega
  have hi : ki.toNat = ki'.toNat := by omega
  rw [BitVec.eq_of_toNat_eq hb, BitVec.eq_of_toNat_eq hi]

/-- Settles O52. -/
theorem keyEffect : Obligations.KeyEffect := by
  intro s t s' t' S out out' kb ki kb' ki' hrun hrun' ho ho'
  obtain rfl := encodeRun_output hrun ho
  obtain rfl := encodeRun_output hrun' ho'
  refine ⟨fun hS hkeys htwo => hkeys (keys_eq_of_take_two hS htwo), ?_, fun d e => decodeRun_encodeFunction,
    fun d e => decodeRun_encodeFunction⟩
  rintro rfl
  exact ⟨rfl, rfl⟩

end Sys2Proof.Machine

/-! PROOFS. Decode sessions against the function of R190. The function removes the bytes of `WS_SET` before it reads anything, so
whatever a session owes to its input alone, its output and its STATUS word, does not depend on them (R189). -/

namespace Sys2Proof.Machine

open Sys2Proof.Safety

/-- Settles O45. -/
theorem decodeSessionIsTheFunction : Obligations.DecodeSessionIsTheFunction := by
  intro s T kb ki h
  obtain ⟨t, hrun, hout, hend, htak, hws⟩ := decodeRun_exists h
  exact ⟨t, hrun, hout, hend, htak, hws⟩

/-- What a decode session appends to OUTQ is the output of the session function. -/
theorem decodeRun_output {s t : State} {T out : List Byte} {kb ki : Sextet} (h : DecodeRun s T kb ki t)
    (ho : t.outq = s.outq ++ out) : out = (decodeFunction s.wsSet T kb ki).1 :=
  List.append_cancel_left (ho.symm.trans (decodeRun_ends h).outq)

/-- The end of a session fixes the STATUS word, since it fixes all four fields (R36). -/
theorem statusWord_eq_of_endsAs {t t' : State} : ∀ {e : SessionEnd}, EndsAs t e → EndsAs t' e → statusWord t = statusWord t'
  | .done, ⟨hp, hd, he, hi⟩, ⟨hp', hd', he', hi'⟩ => by
    simp only [statusWord, hp, hd, he, hi, hp', hd', he', hi']
  | .fault _ _, ⟨hp, hd, he, hi⟩, ⟨hp', hd', he', hi'⟩ => by
    simp only [statusWord, hp, hd, he, hi, hp', hd', he', hi']

/-- The session function sees only the significant characters of its input (R189). -/
theorem decodeFunction_congr {ws : WsSet} {T T' : List Byte} (kb ki : Sextet)
    (h : T.filter (fun c => c ∉ ws) = T'.filter (fun c => c ∉ ws)) :
    decodeFunction ws T kb ki = decodeFunction ws T' kb ki := by
  rw [decodeFunction, h, decodeFunction]

/-- Settles O48: both sessions are the session function of the same significant characters. -/
theorem whitespaceTolerance : Obligations.WhitespaceTolerance := by
  intro s t s' t' T T' out out' kb ki hws hT hrun hrun' ho ho'
  have hf := decodeFunction_congr kb ki hT
  have hf' : decodeFunction s'.wsSet T' kb ki = decodeFunction s.wsSet T kb ki := by
    rw [← hws, hf]
  have hend' := hf' ▸ (decodeRun_ends hrun').ended
  refine ⟨hf, ?_, statusWord_eq_of_endsAs (decodeRun_ends hrun).ended hend'⟩
  rw [decodeRun_output hrun ho, decodeRun_output hrun' ho', hf']

end Sys2Proof.Machine

/-! PROOFS. Phase FAULT (R252, R253). Its row of the acceptance table holds every word, so a step waits, takes an output byte or is a
RESET. -/

namespace Sys2Proof.Machine

/-- R253: in phase FAULT every command and every beat is held. -/
theorem not_accepts_word_of_fault {s : State} (hp : s.phase = .fault) : ∀ w : PortWord, accepts s (.word w) = false
  | .cmd _ => by simp [accepts, hp]
  | .beat _ => by simp [accepts, hp]

/-- What a step can do in phase FAULT: RESET by its line, nothing, `OUT`, or RESET as the accepted event. -/
theorem step_cases_of_fault {s : State} (hp : s.phase = .fault) :
    (s.resetLine = true ∧ step s = .next (resetByLine s)) ∨
    step s = .next s ∨
    (∃ rest, step s = .next (takeOut { s with offers := rest })) ∨
    (.reset ∈ s.offers ∧ ∃ rest, step s = .next (resetCore { s with offers := rest })) := by
  rcases step_cases s with hline | ⟨-, -, hwait⟩ | ⟨-, o, rest, -, haccepted, hoffered, hstep⟩
  · exact .inl hline
  · exact .inr (.inl hwait)
  · cases o with
    | word w => simp [not_accepts_word_of_fault hp w] at haccepted
    | out => exact .inr (.inr (.inl ⟨rest, hstep⟩))
    | reset => exact .inr (.inr (.inr ⟨hoffered, rest, hstep⟩))

/-- Settles O39: of the four things a step can do in phase FAULT only the two RESETs write PHASE, ERR or ERRINFO. -/
theorem faultIsLeftOnlyByReset : Obligations.FaultIsLeftOnlyByReset := by
  intro s t hp hstep
  refine ⟨not_accepts_word_of_fault hp, ?_⟩
  rcases step_cases_of_fault hp with ⟨hline, hreset⟩ | hwait | ⟨rest, hout⟩ | ⟨hoffered, rest, hreset⟩
  · cases hstep.symm.trans hreset
    exact .inr ⟨.inl hline, by simp⟩
  · cases hstep.symm.trans hwait
    exact .inl ⟨hp, rfl, rfl⟩
  · cases hstep.symm.trans hout
    exact .inl (by simp [hp])
  · cases hstep.symm.trans hreset
    exact .inr ⟨.inr hoffered, by simp⟩

end Sys2Proof.Machine

/-! PROOFS. The decoder and the encoder are inverse to each other (R91, R93, R112). A command word is its three fields, and a data beat
is its byte; what is left is the table of phase DEC, where a byte selects the row that stands for it in its class and every such row
is selected by its byte. -/

namespace Sys2Proof.Machine

/-! ### The rows of sub-format CHAR -/

theorem phase_of_char {i : Instr} {c : Byte} {k : CharClass} (h : i.char? = some (c, k)) : i.phase = .dec := by
  rcases instr_cases i with ⟨_, _, rfl⟩ | ⟨_, _, rfl⟩ | ⟨_, rfl⟩ | rfl | rfl | ⟨hp, -⟩
  · cases h
  · cases h
  · cases h
  · cases h
  · rfl
  · exact hp

/-- The word of a CHAR row is the data beat of the row's byte. -/
theorem encode_of_char {i : Instr} {c : Byte} {k : CharClass} (h : i.char? = some (c, k)) : encode i = dataBeat c := by
  cases i <;> simp only [Instr.char?, Option.some.injEq, Prod.mk.injEq, reduceCtorEq] at h <;>
    obtain ⟨rfl, rfl⟩ := h <;> rfl

/-- A row of sub-format CHAR is what its byte selects, where the byte has the class of the row. -/
theorem decodeChar_of_char {ws : WsSet} {i : Instr} {c : Byte} {k : CharClass} (h : i.char? = some (c, k))
    (hc : classify ws c = k) : decodeChar ws c = .instr i := by
  unfold decodeChar
  rw [hc]
  cases i <;> simp only [Instr.char?, Option.some.injEq, Prod.mk.injEq, reduceCtorEq] at h <;>
    obtain ⟨rfl, rfl⟩ := h <;> rfl

/-- What a byte selects is a row of its own and of its class. -/
theorem char_of_decodeChar {ws : WsSet} {c : Byte} {i : Instr} (h : decodeChar ws c = .instr i) :
    i.char? = some (c, classify ws c) := by
  unfold decodeChar at h
  split at h
  · rename_i v hv
    injection h with h
    rw [← h, symInstr_char, hv, alpha_of_symIndex c v (classify_sym_iff.mp hv).2]
  · rename_i hv
    injection h with h
    rw [← h, hv, (classify_pad_iff.mp hv).2]
    rfl
  · rename_i hv
    split at h
    · rename_i j hj
      injection h with h
      rw [← h, hv, wsInstr?_char hj]
    · cases h
  · rename_i hv
    injection h with h
    rw [← h, hv]
    rfl

/-- A byte selects a row, or is a whitespace byte without one (R173). -/
theorem decodeChar_cases (ws : WsSet) (c : Byte) :
    (∃ i, decodeChar ws c = .instr i) ∨ (c ∈ ws ∧ decodeChar ws c = .rejected (.wsWithoutRow c)) := by
  by_cases hc : c ∈ ws
  · simp only [decodeChar, classify_of_mem hc]
    cases wsInstr? c with
    | some i => exact .inl ⟨i, rfl⟩
    | none => exact .inr ⟨hc, rfl⟩
  · obtain ⟨i, _, hi, -⟩ := decodeChar_of_not_mem hc
    exact .inl ⟨i, hi⟩

theorem wellFormed_of_char {ws : WsSet} {i : Instr} {c : Byte} {k : CharClass} (h : i.char? = some (c, k)) :
    i.wellFormed ws = true ↔ classify ws c = k := by
  simp [Instr.wellFormed, h]

/-! ### Encoding, then decoding -/

/-- Settles O1: the fields of a command word and the byte of a beat are read back, and a byte of the row's class selects the row. -/
theorem decodeOfEncodeIsIdentity : Obligations.DecodeOfEncodeIsIdentity := by
  intro ws i hwf
  rcases instr_cases i with ⟨kb, ki, rfl⟩ | ⟨kb, ki, rfl⟩ | ⟨b, rfl⟩ | rfl | rfl | ⟨hp, c, k, hi⟩
  · exact decode_cmdWord ws true kb ki
  · exact decode_cmdWord ws false kb ki
  · exact decode_dataBeat_enc ws b
  · exact decode_eosBeat_enc ws
  · exact decode_eosBeat_dec ws
  · rw [hp, encode_of_char hi, decode_dataBeat_dec]
    exact decodeChar_of_char hi ((wellFormed_of_char hi).mp hwf)

/-- Settles O3: each of the ten words is the word that the encoder writes for its instruction. -/
theorem writtenWordsDecode : Obligations.WrittenWordsDecode := by
  have h := fun i => decodeOfEncodeIsIdentity Config.wsDefault i
  exact ⟨h (.enc 5#6 7#6) rfl, h (.dec 10#6 21#6) rfl, h (.encIn 0x4D#8) rfl, h .encEos rfl, h .decEos rfl, h .decSym0 rfl,
    h .decSym63 rfl, h .decPad rfl, h .decWsLf rfl, h (.decInv 0x21#8) rfl⟩

/-! ### Decoding, then encoding -/

theorem cmdWord_fields (w : CmdWord) : cmdWord (cmdOp w) (cmdKb w) (cmdKi w) = .cmd w := by
  have hw := w.isLt
  rw [cmdWord_eq_ofNat]
  refine congrArg PortWord.cmd (BitVec.eq_of_toNat_eq ?_)
  have hop : (cmdOp w).toNat = w.toNat / 4096 % 2 := Nat.toNat_testBit w.toNat 12
  simp only [hop, cmdKb, cmdKi, BitVec.extractLsb'_toNat, BitVec.toNat_ofNat, Nat.shiftRight_eq_div_pow, two_pow_symBits]
  omega

theorem dataBeat_beatData {w : BeatWord} (h : beatEos w = false) : dataBeat (beatData w) = .beat w := by
  have hw := w.isLt
  have heos : (beatEos w).toNat = w.toNat / 256 % 2 := Nat.toNat_testBit w.toNat 8
  rw [h, Bool.toNat_false] at heos
  refine congrArg PortWord.beat (BitVec.eq_of_toNat_eq ?_)
  simp only [toNat_append_eq_add, beatData, BitVec.extractLsb'_toNat, BitVec.toNat_ofNat, Nat.shiftRight_eq_div_pow,
    two_pow_byteBits]
  omega

theorem decode_enc_beat (ws : WsSet) (w : BeatWord) :
    decode ws .enc (.beat w) = if beatEos w then .instr .encEos else .instr (.encIn (beatData w)) := rfl

theorem decode_dec_beat (ws : WsSet) (w : BeatWord) :
    decode ws .dec (.beat w) = if beatEos w then .instr .decEos else decodeChar ws (beatData w) := rfl

/-- What the decoder answers on a beat is a row of the phase that meets it, and its word is the beat or the beat EOS. -/
theorem decode_beat_eq_instr {ws : WsSet} {ph : Phase} {w : BeatWord} {i : Instr} (h : decode ws ph (.beat w) = .instr i) :
    i.phase = ph ∧ i.wellFormed ws = true ∧ (encode i = .beat w ∨ beatEos w = true ∧ encode i = eosBeat) := by
  cases ph with
  | idle => cases h
  | fault => cases h
  | enc =>
    rw [decode_enc_beat] at h
    split at h <;> rename_i heos <;> injection h with h <;> subst h
    · exact ⟨rfl, rfl, .inr ⟨heos, rfl⟩⟩
    · exact ⟨rfl, rfl, .inl (dataBeat_beatData (by simpa using heos))⟩
  | dec =>
    rw [decode_dec_beat] at h
    split at h <;> rename_i heos
    · injection h with h
      subst h
      exact ⟨rfl, rfl, .inr ⟨heos, rfl⟩⟩
    · have hi := char_of_decodeChar h
      refine ⟨phase_of_char hi, (wellFormed_of_char hi).mpr rfl, .inl ?_⟩
      rw [encode_of_char hi, dataBeat_beatData (by simpa using heos)]

/-- Settles O2. -/
theorem encodeOfDecodeIsIdentity : Obligations.EncodeOfDecodeIsIdentity := by
  intro ws ph w i h
  cases w with
  | beat w =>
    obtain ⟨hp, hwf, hw | ⟨heos, hw⟩⟩ := decode_beat_eq_instr h
    · exact ⟨hp, hwf, .inl hw⟩
    · exact ⟨hp, hwf, .inr ⟨w, rfl, heos, hw⟩⟩
  | cmd w =>
    have hword := cmdWord_fields w
    cases ph with
    | idle =>
      injection h with h
      subst h
      cases hop : cmdOp w <;> rw [hop] at hword <;> simp only [decodeCmd, hop]
      · exact ⟨rfl, rfl, .inl hword⟩
      · exact ⟨rfl, rfl, .inl hword⟩
    | enc => cases h
    | dec => cases h
    | fault => cases h

theorem beatEos_eos : ∀ b : Byte, beatEos (1#1 ++ b) = true := by decide

/-- Settles O5. -/
theorem noWordIsReservedOrIllegal : Obligations.NoWordIsReservedOrIllegal := by
  refine ⟨fun ws w => ⟨decodeCmd w, rfl⟩, fun ws w => ?_, fun ws w => ?_, fun ws b => ?_⟩
  · rw [decode_enc_beat]
    split <;> exact ⟨_, rfl⟩
  · rw [decode_dec_beat]
    split
    · exact .inl ⟨_, rfl⟩
    · exact decodeChar_cases ws (beatData w)
  · rw [decode_enc_beat, decode_dec_beat, beatEos_eos]
    exact ⟨rfl, rfl⟩

end Sys2Proof.Machine

/-! PROOFS. The invariant. From every state with it a step answers a next state that has it again, so it is kept (R40) and no run
stops (R44, R225). In phase DEC it says that a block's first characters stand collected in QUAD, as in a decode session; in phase ENC
that the slots of BUF which a block reads hold values. -/

namespace Sys2Proof.Machine

open Sys2Proof.Safety

/-! ### States with the invariant -/

/-- In phase IDLE the invariant asks for a legal `WS_SET` and a clean STATUS only. -/
theorem inv_of_idle {s : State} (hw : Config.wsLegal s.wsSet = true) (hp : s.phase = .idle) (he : s.err = .none)
    (hi : s.errInfo = 0#byteBits) : Inv s where
  ws := hw
  status := ⟨fun _ => hp, fun _ => ⟨he, hi⟩, by simp [hp]⟩
  enc := by simp [hp]
  dec := by simp [hp]

/-- In phase FAULT it asks for a code with its detail (R36). -/
theorem inv_of_fault {s : State} (hw : Config.wsLegal s.wsSet = true) (hp : s.phase = .fault) (hd : s.done = false)
    (hf : FaultDetailLegal s) : Inv s where
  ws := hw
  status := ⟨by simp [hd], fun h => absurd hp h, fun _ => hf⟩
  enc := by simp [hp]
  dec := by simp [hp]

theorem inv_of_enc {s : State} (hw : Config.wsLegal s.wsSet = true) (hp : s.phase = .enc)
    (hc : s.done = false ∧ s.err = .none ∧ s.errInfo = 0#byteBits) (he : EncLegal s) : Inv s where
  ws := hw
  status := ⟨by simp [hc.1], fun _ => hc.2, by simp [hp]⟩
  enc := fun _ => he
  dec := by simp [hp]

/-- While a session runs DONE is 0, and there is no fault code and no detail. -/
theorem clean_of_inv {s : State} (h : Inv s) (hp : s.phase = .enc ∨ s.phase = .dec) :
    s.done = false ∧ s.err = .none ∧ s.errInfo = 0#byteBits := by
  obtain ⟨hdone, hclean, -⟩ := h.status
  have hi : s.phase ≠ .idle := by rcases hp with hp | hp <;> simp [hp]
  have hf : s.phase ≠ .fault := by rcases hp with hp | hp <;> simp [hp]
  exact ⟨by simpa using fun hd => hi (hdone hd), hclean hf⟩

/-- The invariant does not look at the host's side of the ports. -/
theorem inv_on_host {s : State} (h : Inv s) (outq : List Byte) (line : Bool) (offers : List Offer) (taken : List Byte) :
    Inv { s with outq := outq, resetLine := line, offers := offers, taken := taken } where
  ws := h.ws
  status := ⟨h.status.done_idle, h.status.no_fault, h.status.fault⟩
  enc := fun hp =>
    let ⟨hcnt, hcol, hdvd, hk, hbuf⟩ := h.enc hp
    ⟨hcnt, hcol, hdvd, hk, hbuf⟩
  dec := fun hp =>
    let ⟨hk, hquad, hpad, hsig⟩ := h.dec hp
    ⟨hk, hquad, hpad, hsig⟩

theorem inv_takeOut {s : State} (h : Inv s) : Inv (takeOut s) := by
  unfold takeOut
  split
  · exact h
  · exact inv_on_host h _ s.resetLine s.offers _

/-- Settles O35. -/
theorem invariantHoldsAtReset : Obligations.InvariantHoldsAtReset := inv_of_idle wsDefault_legal rfl rfl rfl

/-! ### The decoder's registers as collected characters -/

theorem quadSlots_quadOf {pre : List Byte} (h : pre.length < 4) :
    quadSlots (quadOf pre) = pre.map some ++ List.replicate (4 - pre.length) none := by
  match pre, h with
  | [], _ => rfl
  | [_], _ => rfl
  | [_, _], _ => rfl
  | [_, _, _], _ => rfl
  | _ :: _ :: _ :: _ :: _, h => simp at h; omega

theorem count_quadSlots_quadOf {pre : List Byte} (h : pre.length < 4) (c : Byte) :
    (quadSlots (quadOf pre)).count (some c) = pre.count c := by
  rw [quadSlots_quadOf h, List.count_append, List.count_map_of_injective _ _ (Option.some_injective _), List.count_replicate]
  rfl

theorem mem_quadSlots_quadOf {pre : List Byte} (h : pre.length < 4) {c : Byte} :
    some c ∈ quadSlots (quadOf pre) ↔ c ∈ pre := by
  simp [quadSlots_quadOf h]

theorem quadFilled_quadOf (pre : List Byte) : QuadFilled pre.length (quadOf pre) := by
  simp [QuadFilled, quadOf]

theorem exists_of_isSome_iff {o : Option Byte} {m n : Nat} (h : o.isSome ↔ m < n) (hn : m < n) : ∃ x, o = some x :=
  Option.isSome_iff_exists.mp (h.mpr hn)

theorem eq_none_of_isSome_iff {o : Option Byte} {m n : Nat} (h : o.isSome ↔ m < n) (hn : n ≤ m) : o = none :=
  Option.not_isSome_iff_eq_none.mp fun ho => absurd (h.mp ho) (Nat.not_lt_of_le hn)

/-- A QUAD of which the first slots hold values holds a list of characters. -/
theorem exists_quadOf {n : Nat} {q : QuadBuf} (hn : n < 4) (h : QuadFilled n q) :
    ∃ pre : List Byte, pre.length = n ∧ q = quadOf pre := by
  obtain ⟨c0, c1, c2, c3⟩ := q
  obtain ⟨h0, h1, h2, h3⟩ := h
  obtain rfl := eq_none_of_isSome_iff h3 (Nat.le_of_lt_succ hn)
  by_cases n2 : 2 < n
  · obtain ⟨x, rfl⟩ := exists_of_isSome_iff h0 (by omega)
    obtain ⟨y, rfl⟩ := exists_of_isSome_iff h1 (by omega)
    obtain ⟨z, rfl⟩ := exists_of_isSome_iff h2 n2
    exact ⟨[x, y, z], by simp; omega, rfl⟩
  obtain rfl := eq_none_of_isSome_iff h2 (Nat.le_of_not_lt n2)
  by_cases n1 : 1 < n
  · obtain ⟨x, rfl⟩ := exists_of_isSome_iff h0 (by omega)
    obtain ⟨y, rfl⟩ := exists_of_isSome_iff h1 n1
    exact ⟨[x, y], by simp; omega, rfl⟩
  obtain rfl := eq_none_of_isSome_iff h1 (Nat.le_of_not_lt n1)
  by_cases n0 : 0 < n
  · obtain ⟨x, rfl⟩ := exists_of_isSome_iff h0 n0
    exact ⟨[x], by simp; omega, rfl⟩
  obtain rfl := eq_none_of_isSome_iff h0 (Nat.le_of_not_lt n0)
  exact ⟨[], by simp; omega, rfl⟩

/-- The invariant in phase DEC: a decode session with characters collected. -/
theorem collecting_of_inv {s : State} (h : Inv s) (hr : s.resetLine = false) (hp : s.phase = .dec) :
    ∃ pre, Collecting s pre := by
  obtain ⟨-, hquad, hpad, hsig⟩ := h.dec hp
  obtain ⟨pre, hlen, hq⟩ := exists_quadOf s.nch.isLt hquad
  have hshort : pre.length < 4 := hlen ▸ s.nch.isLt
  rw [hq, count_quadSlots_quadOf hshort] at hpad
  have hnch : s.nch = BitVec.ofNat 2 pre.length := by rw [hlen, BitVec.ofNat_toNat, BitVec.setWidth_eq]
  refine ⟨pre, hr, hp, hshort, hq, hnch, hpad, fun c hc => ?_, clean_of_inv h (.inr hp)⟩
  exact hsig c (by rwa [hq, mem_quadSlots_quadOf hshort])

theorem inv_of_collecting {s : State} {pre : List Byte} (hw : Config.wsLegal s.wsSet = true) (hk : s.k.toNat ≤ kMax)
    (h : Collecting s pre) : Inv s where
  ws := hw
  status := ⟨by simp [h.clean.1], fun _ => h.clean.2, by simp [h.phase]⟩
  enc := by simp [h.phase]
  dec := fun _ =>
    { k_le := hk
      quad := by rw [h.nch_toNat, h.quad]; exact quadFilled_quadOf pre
      pad := by rw [h.pad, h.quad, count_quadSlots_quadOf h.short]
      significant := fun c hc => h.significant c (by rwa [h.quad, mem_quadSlots_quadOf h.short] at hc) }

/-! ### The instructions -/

/-- The outcome of a step that goes on safely: a next state with the invariant. -/
def Advances (r : Result) : Prop := ∃ t, r = .next t ∧ Inv t

theorem inPhase_advances {p : Phase} {s : State} {f : State → Result} (h : Inv s) (hf : s.phase = p → Advances (f s)) :
    Advances (inPhase p s f) := by
  by_cases hp : s.phase = p
  · rw [inPhase_of_eq hp]
    exact hf hp
  · rw [inPhase_of_ne hp]
    exact ⟨s, rfl, h⟩

theorem keyBase_le (kb : Sextet) : (kb.setWidth 7).toNat ≤ kMax := by
  have := Sextet.toNat_lt kb
  rw [BitVec.toNat_setWidth, kMax_eq]
  omega

theorem keyAfterBlock_le (k : BitVec 7) (inc : Sextet) : (keyAfterBlock k.toNat inc.toNat).toNat ≤ kMax := by
  have := Sextet.toNat_lt inc
  rw [keyAfterBlock, BitVec.toNat_ofNat, alphabetSize_eq, kMax_eq]
  omega

theorem execEnc_advances {s : State} (h : Inv s) (kb ki : Sextet) : Advances (execEnc kb ki s) :=
  inPhase_advances h fun _ =>
    ⟨_, rfl, inv_of_enc h.ws rfl ⟨rfl, rfl, rfl⟩
      ⟨by simp, by simp, by simp, keyBase_le kb, by simp [BufFilled, ChunkBuf.empty]⟩⟩

theorem execDec_advances {s : State} (h : Inv s) (hr : s.resetLine = false) (kb ki : Sextet) :
    Advances (execDec kb ki s) :=
  inPhase_advances h fun _ =>
    ⟨_, rfl, inv_of_collecting (pre := []) h.ws (keyBase_le kb)
      ⟨hr, rfl, by simp, rfl, rfl, rfl, by simp, rfl, rfl, rfl⟩⟩

/-- `EncodeBlock` reads the first `n` slots only. -/
theorem exists_chunkBytes {n : Nat} {b : ChunkBuf} (h0 : 0 < n) (h : BufFilled n b) : ∃ r, chunkBytes n b = some r := by
  obtain ⟨hb0, hb1, hb2⟩ := h
  obtain ⟨x, hx⟩ := exists_of_isSome_iff hb0 h0
  obtain ⟨y, hy⟩ : ∃ y, (if 2 ≤ n then b.b1 else some 0#8) = some y := by
    split
    · exact exists_of_isSome_iff hb1 (by assumption)
    · exact ⟨_, rfl⟩
  obtain ⟨z, hz⟩ : ∃ z, (if blockRaw ≤ n then b.b2 else some 0#8) = some z := by
    split
    · exact exists_of_isSome_iff hb2 (by assumption)
    · exact ⟨_, rfl⟩
  exact ⟨{ b0 := x, b1 := y, b2 := z }, by rw [chunkBytes, hx, hy, hz]⟩

theorem cnt_cases : ∀ c : BitVec 2, c.toNat < blockRaw → c = 0#2 ∨ c = 1#2 ∨ c = 2#2 := by decide

theorem storeRaw_advances {s : State} (h : Inv s) (hp : s.phase = .enc) (b : Byte) : Advances (storeRaw b s) := by
  have hclean := clean_of_inv h (.inl hp)
  obtain ⟨hcnt, hcol, hdvd, hk, hbuf⟩ := h.enc hp
  rw [lineWidth_eq] at hcol
  obtain ⟨hb0, hb1, hb2⟩ := hbuf
  rcases cnt_cases s.cnt hcnt with hc | hc | hc <;> rw [hc] at hb0 hb1 hb2
  · have hone : BufFilled 1 { s.buf with b0 := some b } := ⟨by simp, by simpa using hb1, by simpa using hb2⟩
    exact ⟨_, storeRaw_first b hc, inv_of_enc h.ws hp hclean ⟨by simp, hcol, hdvd, hk, hone⟩⟩
  · have htwo : BufFilled 2 { s.buf with b1 := some b } := ⟨by simpa using hb0, by simp, by simpa using hb2⟩
    exact ⟨_, storeRaw_second b hc, inv_of_enc h.ws hp hclean ⟨by simp, hcol, hdvd, hk, htwo⟩⟩
  · have hfull : BufFilled 3 { s.buf with b2 := some b } := ⟨by simpa using hb0, by simpa using hb1, by simp⟩
    obtain ⟨r, hr⟩ := exists_chunkBytes (by decide) hfull
    have hd4 : 4 ∣ s.col.toNat := hdvd
    have hl : s.col.toNat ≤ 72 := by omega
    have hcol' := col_after_block hd4 hl
    refine ⟨_, (storeRaw_third b hc).trans (encodeBlock_of_aligned hr hd4 hl), inv_of_enc h.ws hp hclean ?_⟩
    refine ⟨by simp, ?_, ?_, keyAfterBlock_le s.k s.inc, by simp [BufFilled, ChunkBuf.empty]⟩
    · rw [hcol', lineWidth_eq]
      omega
    · rw [hcol', blockSym_eq]
      omega

theorem finishEncode_advances {s : State} (h : Inv s) (hp : s.phase = .enc) : Advances (finishEncode s) := by
  obtain ⟨-, herr, hinfo⟩ := clean_of_inv h (.inl hp)
  obtain ⟨hcnt, hcol, hdvd, -, hbuf⟩ := h.enc hp
  rw [lineWidth_eq] at hcol
  rw [blockSym_eq] at hdvd
  by_cases hc : s.cnt = 0#2
  · exact ⟨_, if_pos hc, inv_of_idle (by simpa using h.ws) rfl (by simpa using herr) (by simpa using hinfo)⟩
  · have hpos : 0 < s.cnt.toNat := Nat.pos_of_ne_zero fun h0 => hc (BitVec.eq_of_toNat_eq h0)
    obtain ⟨r, hr⟩ := exists_chunkBytes hpos hbuf
    exact ⟨_, finishEncode_short hc hr hdvd (by omega), inv_of_idle h.ws rfl herr hinfo⟩

theorem finishDecode_advances {s : State} (h : Inv s) (hp : s.phase = .dec) : Advances (finishDecode s) := by
  obtain ⟨hdone, herr, hinfo⟩ := clean_of_inv h (.inr hp)
  by_cases hn : s.nch = 0#2
  · exact ⟨_, if_pos hn, inv_of_idle h.ws rfl herr hinfo⟩
  · have hpos : 0 < s.nch.toNat := Nat.pos_of_ne_zero fun h0 => hn (BitVec.eq_of_toNat_eq h0)
    refine ⟨_, if_neg hn, inv_of_fault h.ws rfl hdone (.inl ⟨rfl, ?_⟩)⟩
    have hlt := s.nch.isLt
    rw [raiseFault_errInfo, BitVec.toNat_setWidth, two_pow_byteBits]
    omega

theorem storeChar_advances {s : State} {c : Byte} (h : Inv s) (hr : s.resetLine = false) (hp : s.phase = .dec)
    (hc : c ∉ s.wsSet) : Advances (storeChar c s) := by
  obtain ⟨pre, hpre⟩ := collecting_of_inv h hr hp
  by_cases hlen : pre.length < 3
  · obtain ⟨hstore, hnext⟩ := storeChar_collects hpre hc hlen
    exact ⟨_, hstore, inv_of_collecting h.ws (h.dec hp).k_le hnext⟩
  · obtain ⟨x, y, z, rfl⟩ : ∃ x y z, pre = [x, y, z] := List.length_eq_three.mp (by have := hpre.short; omega)
    rcases storeChar_completes hpre hc rfl with ⟨d, hi, hstore⟩ | ⟨-, hm, hstore⟩ | ⟨-, -, hstore⟩
    · have hd : classify s.wsSet d = .inv := by simpa using List.find?_some hi
      exact ⟨_, hstore, inv_of_fault h.ws rfl hpre.clean.1 (.inr (.inl ⟨rfl, hd⟩))⟩
    · refine ⟨_, hstore, inv_of_fault h.ws rfl hpre.clean.1 (.inr (.inr ⟨rfl, ?_⟩))⟩
      have hle : markerCount { c0 := x, c1 := y, c2 := z, c3 := c } ≤ 4 := List.count_le_length
      rw [raiseFault_errInfo, BitVec.toNat_ofNat, two_pow_byteBits]
      omega
    · exact ⟨_, hstore, inv_of_collecting h.ws (keyAfterBlock_le s.k s.inc) (afterGoodBlock_collecting hpre _)⟩

/-- Every well-formed row of the table goes on safely; an ill-formed one could store a byte of `WS_SET` in QUAD. -/
theorem exec_advances {i : Instr} {s : State} (h : Inv s) (hr : s.resetLine = false) (hwf : i.wellFormed s.wsSet = true) :
    Advances (exec i s) := by
  rcases instr_cases i with ⟨kb, ki, rfl⟩ | ⟨kb, ki, rfl⟩ | ⟨b, rfl⟩ | rfl | rfl | ⟨-, c, k, hi⟩
  · exact execEnc_advances h kb ki
  · exact execDec_advances h hr kb ki
  · exact inPhase_advances h fun hp => storeRaw_advances h hp b
  · exact inPhase_advances h fun hp => finishEncode_advances h hp
  · exact inPhase_advances h fun hp => finishDecode_advances h hp
  · rw [exec_of_char hi]
    have hk := (wellFormed_of_char hi).mp hwf
    split
    · exact ⟨s, rfl, h⟩
    · rename_i hws
      exact inPhase_advances h fun hp => storeChar_advances h hr hp fun hc => hws (hk.symm.trans (classify_of_mem hc))

/-! ### The step -/

theorem runWord_advances {s : State} (w : PortWord) (h : Inv s) (hr : s.resetLine = false) : Advances (runWord w s) := by
  unfold runWord
  split
  · rename_i i hd
    exact exec_advances h hr (encodeOfDecodeIsIdentity _ _ _ _ hd).2.1
  · exact ⟨s, skipWhitespace_eq s, h⟩
  · exact ⟨s, rfl, h⟩

theorem runOffer_advances {s : State} (o : Offer) (h : Inv s) (hr : s.resetLine = false) : Advances (runOffer o s) := by
  cases o with
  | word w => exact runWord_advances w h hr
  | out => exact ⟨_, rfl, inv_takeOut h⟩
  | reset => exact ⟨_, rfl, inv_of_idle h.ws rfl rfl rfl⟩

theorem step_advances {s : State} (h : Inv s) : Advances (step s) := by
  rcases step_cases s with ⟨-, hs⟩ | ⟨-, -, hs⟩ | ⟨hr, o, rest, -, -, -, hs⟩
  · exact ⟨_, hs, inv_of_idle h.ws rfl rfl rfl⟩
  · exact ⟨_, hs, h⟩
  · rw [hs]
    exact runOffer_advances o (inv_on_host h s.outq s.resetLine rest s.taken) hr

/-- Settles O36. -/
theorem stepKeepsTheInvariant : Obligations.StepKeepsTheInvariant := by
  intro s t h hs
  obtain ⟨u, hu, hinv⟩ := step_advances h
  cases hs.symm.trans hu
  exact hinv

/-- Settles O37, by induction on the number of steps. -/
theorem runsNeverStop : Obligations.RunsNeverStop := by
  intro s h n
  induction n generalizing s with
  | zero => exact ⟨s, rfl⟩
  | succ n ih =>
    obtain ⟨u, hu, hinv⟩ := step_advances h
    rw [run_succ hu]
    exact ih u hinv

end Sys2Proof.Machine

/-! PROOFS. The key schedule in closed form (R125). Call `j` adds `j` increments to the key base, so the offsets repeat after `p` calls
exactly where `p` increments are a multiple of 64. -/

namespace Sys2Proof.Machine

theorem dvd_mul_iff_div_gcd_dvd (p n : Nat) : 64 ∣ p * n ↔ 64 / Nat.gcd n 64 ∣ p := by
  have hg : 0 < Nat.gcd n 64 := Nat.gcd_pos_of_pos_right n (by decide)
  rw [Nat.div_dvd_iff_dvd_mul (Nat.gcd_dvd_right n 64) hg, Nat.gcd_comm, Nat.dvd_gcd_mul_iff_dvd_mul, Nat.mul_comm]

/-- The offsets shifted by `p` calls are the offsets exactly where `p` increments vanish modulo 64. -/
theorem ksOffset_period_iff (s : State) (p : Nat) :
    (∀ j, ksOffset (ksAdvance^[j + p] s) = ksOffset (ksAdvance^[j] s)) ↔ 64 ∣ p * s.inc.toNat := by
  simp only [← BitVec.toNat_inj, ksOffset_iterate, Nat.add_mul]
  constructor
  · intro h
    have h0 := h 0
    omega
  · intro h j
    omega

/-- Settles O13. -/
theorem keyScheduleClosedForm : Obligations.KeyScheduleClosedForm := by
  constructor
  · rintro s kb ki j hk rfl
    have hkb : s.k.toNat = kb.toNat := by rw [hk, BitVec.toNat_setWidth_of_le (by decide)]
    refine ⟨?_, hkb ▸ (ksAdvance_iterate_k s j).1⟩
    apply BitVec.eq_of_toNat_eq
    rw [ksOffset_iterate, hkb, ← fmod64_natCast]
    push_cast
    rfl
  · rintro s kb ki p - rfl
    rw [ksOffset_period_iff, dvd_mul_iff_div_gcd_dvd]

end Sys2Proof.Machine

/-! PROOFS. What each instruction does. In its phase an instruction is its operation, elsewhere it answers the same state (R218); the
statements are the equations of the operations, at the registers that each of them names. -/

namespace Sys2Proof.Machine

/-! ### The phases (R218) -/

/-- Settles O16: every arm of exec is an operation in its row's phase, and a whitespace row changes nothing anywhere. -/
theorem instructionsAreHeldInOtherPhases : Obligations.InstructionsAreHeldInOtherPhases := by
  intro i s hp
  rcases instr_cases i with ⟨kb, ki, rfl⟩ | ⟨kb, ki, rfl⟩ | ⟨b, rfl⟩ | rfl | rfl | ⟨hdec, c, k, hi⟩
  · exact inPhase_of_ne hp fun s => .next { sessionInit kb ki s with phase := .enc }
  · exact inPhase_of_ne hp fun s => .next { sessionInit kb ki s with phase := .dec }
  · exact inPhase_of_ne hp _
  · exact inPhase_of_ne hp _
  · exact inPhase_of_ne hp _
  · rw [exec_of_char hi]
    split
    · rfl
    · exact inPhase_of_ne (hdec ▸ hp) _

theorem exec_encIn {s : State} (b : Byte) (hp : s.phase = .enc) : exec (.encIn b) s = storeRaw b s := inPhase_of_eq hp _

theorem exec_encEos {s : State} (hp : s.phase = .enc) : exec .encEos s = finishEncode s := inPhase_of_eq hp _

theorem exec_decEos {s : State} (hp : s.phase = .dec) : exec .decEos s = finishDecode s := inPhase_of_eq hp _

/-! ### The commands (R210, R211) -/

/-- Settles O14. -/
theorem encCommandStartsSession : Obligations.EncCommandStartsSession := by
  intro s kb ki
  refine ⟨(commandWordsAreAllLegal.1 s.wsSet kb ki).1, fun hp => ?_, instructionsAreHeldInOtherPhases (.enc kb ki) s⟩
  rw [BitVec.ofNat_toNat]
  exact exec_command true kb ki hp

/-- Settles O15. -/
theorem decCommandStartsSession : Obligations.DecCommandStartsSession := by
  intro s kb ki
  refine ⟨(commandWordsAreAllLegal.1 s.wsSet kb ki).2, fun hp => ?_, instructionsAreHeldInOtherPhases (.dec kb ki) s⟩
  rw [BitVec.ofNat_toNat]
  exact exec_command false kb ki hp

/-! ### The encoder (R143, R150) -/

/-- Settles O17. -/
theorem encInStoresTheByte : Obligations.EncInStoresTheByte := fun _ b hp =>
  ⟨fun hc => (exec_encIn b hp).trans (storeRaw_first b hc), fun hc => (exec_encIn b hp).trans (storeRaw_second b hc)⟩

/-- Settles O18: the third byte makes the chunk `x y z`, and `EncodeBlock` encodes it. -/
theorem encInCompletesTheBlock : Obligations.EncInCompletesTheBlock := by
  intro s x y z hp hc h0 h1 hd hl
  have hchunk : chunkBytes 3 { s.buf with b2 := some z } = some { b0 := x, b1 := y, b2 := z } := by
    simp [chunkBytes, h0, h1]
  rw [exec_encIn z hp, storeRaw_third z hc]
  exact encodeBlock_of_aligned hchunk hd hl

/-- Settles O19. -/
theorem encEosClosesTheLine : Obligations.EncEosClosesTheLine := by
  intro s hp hc
  rw [exec_encEos hp, finishEncode, if_pos hc, closeLine_eq]

/-- Settles O20. -/
theorem encEosEmitsTheShortBlock : Obligations.EncEosEmitsTheShortBlock := by
  refine fun s hp hd hl => ⟨fun x hc h0 => ?_, fun x y hc h0 h1 => ?_⟩
  · have hchunk : chunkBytes s.cnt.toNat s.buf = some { b0 := x, b1 := 0#8, b2 := 0#8 } := by
      simp [chunkBytes, hc, h0]
    rw [exec_encEos hp, finishEncode_short (by simp [hc]) hchunk hd hl, hc]
    rfl
  · have hchunk : chunkBytes s.cnt.toNat s.buf = some { b0 := x, b1 := y, b2 := 0#8 } := by
      simp [chunkBytes, hc, h0, h1]
    rw [exec_encEos hp, finishEncode_short (by simp [hc]) hchunk hd hl, hc]
    rfl

/-! ### The decoder: one character (R172 to R174) -/

/-- Settles O21. -/
theorem whitespaceIsIgnored : Obligations.WhitespaceIsIgnored := by
  refine ⟨fun s c hp hc => ⟨by simp [accepts, dataBeat, hp], runWord_whitespace hp hc⟩, fun i c s hi => ?_⟩
  rw [exec_of_char hi, if_pos rfl]

/-- Settles O22: below NCH = 3 the character goes into the slot that NCH names. -/
theorem significantCharacterIsStored : Obligations.SignificantCharacterIsStored := by
  intro i c k s hi hk hp
  rw [exec_of_significant hi hk hp, storeChar_eq]
  refine ⟨fun hn => ?_, fun hn => ?_, fun hn => ?_⟩ <;> (rw [if_neg (by simp [hn]), collect, hn]; rfl)

/-! ### The decoder: a block (R176 to R182) -/

theorem firstInvalid_eq_none_of_significant {ws : WsSet} {q : CharBlock}
    (h : ∀ d ∈ [q.c0, q.c1, q.c2, q.c3], d ∉ ws ∧ (d = padChar ∨ (symIndex d).isSome = true)) :
    firstInvalid ws q = none := by
  refine List.find?_eq_none.mpr fun d hd => ?_
  rw [beq_iff_eq]
  refine classify_ne_inv ?_
  rcases (h d hd).2 with hp | hs
  · exact .inr hp
  · obtain ⟨v, hv⟩ := Option.isSome_iff_exists.mp hs
    exact .inl ⟨v, (alpha_of_symIndex d v hv).symm⟩

/-- The first invalid character, with the characters before it. -/
theorem firstInvalid_eq_some {ws : WsSet} {q : CharBlock} {pre post : List Byte} {d : Byte}
    (h : [q.c0, q.c1, q.c2, q.c3] = pre ++ d :: post) (hd : classify ws d = .inv)
    (hpre : ∀ e ∈ pre, classify ws e ≠ .inv) : firstInvalid ws q = some d := by
  rw [firstInvalid, List.find?_eq_some_iff_append]
  exact ⟨by simpa using hd, pre, post, h, by simpa using hpre⟩

section
variable {i : Instr} {k : CharClass} {s : State} {x y z c : Byte} (hi : i.char? = some (c, k)) (hk : k ≠ .ws)
  (hp : s.phase = .dec) (hn : s.nch = 3#2) (h0 : s.quad.c0 = some x) (h1 : s.quad.c1 = some y) (h2 : s.quad.c2 = some z)
include hi hk hp hn h0 h1 h2

/-- The fourth character of a block, with an invalid one among the four. -/
theorem exec_fourth_of_invalid {d : Byte} (hd : firstInvalid s.wsSet { c0 := x, c1 := y, c2 := z, c3 := c } = some d) :
    exec i s = .next (raiseFault .eChar d (collect c s)) := by
  rw [exec_of_significant hi hk hp, storeChar_eq, if_pos hn]
  exact decodeBlock_of_invalid (collect_fourth c hn h0 h1 h2) hd

/-- The fourth character of a block of alphabet characters and markers. -/
theorem exec_fourth_of_valid (hpad : s.pad.toNat = [x, y, z].count padChar)
    (hd : ∀ d ∈ [x, y, z, c], d ∉ s.wsSet ∧ (d = padChar ∨ (symIndex d).isSome = true)) :
    exec i s =
      if 2 < markerCount { c0 := x, c1 := y, c2 := z, c3 := c } then
        .next (raiseFault .ePad ((collect c s).pad.setWidth 8) (collect c s))
      else
        .next (decodeGoodBlock (significantValues { c0 := x, c1 := y, c2 := z, c3 := c }) (collect c s)) := by
  have hchars := collect_fourth c hn h0 h1 h2
  have hnone : firstInvalid s.wsSet { c0 := x, c1 := y, c2 := z, c3 := c } = none :=
    firstInvalid_eq_none_of_significant hd
  rw [exec_of_significant hi hk hp, storeChar_eq, if_pos hn, ← collect_pad_toNat c hpad]
  exact decodeBlock_of_valid hchars (fun d hmem => (hd d hmem).1) hnone

end

/-- Settles O23. -/
theorem goodBlockIsDecoded : Obligations.GoodBlockIsDecoded := by
  intro i k s x y z c hi hk hp hn h0 h1 h2 hpad hd hm
  rw [exec_fourth_of_valid hi hk hp hn h0 h1 h2 hpad hd, if_neg (Nat.not_lt_of_le hm), decodeGoodBlock_eq,
    collect_pad_toNat c hpad]
  rfl

/-- Settles O24. -/
theorem invalidCharacterFaults : Obligations.InvalidCharacterFaults := by
  rintro i k s x y z c d hi hk hp hn h0 h1 h2 ⟨pre, post, hsplit, hd, hpre⟩
  exact ⟨_, exec_fourth_of_invalid hi hk hp hn h0 h1 h2 (firstInvalid_eq_some hsplit hd hpre), by simp⟩

/-- Settles O25. -/
theorem tooManyMarkersFault : Obligations.TooManyMarkersFault := by
  intro i k s x y z c hi hk hp hn h0 h1 h2 hpad hd hm
  refine ⟨_, (exec_fourth_of_valid hi hk hp hn h0 h1 h2 hpad hd).trans (if_pos hm), rfl, rfl, ?_, by simp⟩
  rw [raiseFault_errInfo, BitVec.toNat_setWidth_of_le (by decide), collect_pad_toNat c hpad]

/-- Settles O26. -/
theorem decEosEndsOrFaults : Obligations.DecEosEndsOrFaults := by
  refine ⟨fun s hp hn => ?_, fun s hp hn => ⟨_, (exec_decEos hp).trans (if_neg hn), rfl, rfl, ?_, by simp⟩,
    instructionsAreHeldInOtherPhases .decEos, fun ws b hb => ?_⟩
  · rw [exec_decEos hp, finishDecode, if_pos hn, endSession]
  · rw [raiseFault_errInfo, BitVec.toNat_setWidth_of_le (by decide)]
  · rw [decode_dec_beat, if_pos hb]

end Sys2Proof.Machine

/-! PROOFS. The step and the ports the host reads. A step is the effect of the earliest offered event that the present phase accepts
(R218), so each statement names that event and says what its effect is. -/

namespace Sys2Proof.Machine

/-! ### The earliest acceptable event (R218) -/

theorem step_of_first_acceptable {s : State} {pre post : List Offer} {o : Offer} (hr : s.resetLine = false)
    (ho : s.offers = pre ++ o :: post) (hpre : ∀ p ∈ pre, accepts s p = false) (ha : accepts s o = true) :
    step s = runOffer o { s with offers := pre ++ post } := by
  refine step_of_nextOffer hr ?_
  rw [nextOffer, ho]
  exact takeFirst_append hpre ha

theorem accepts_out_iff {s : State} : accepts s .out = true ↔ s.outq ≠ [] := by
  simp [accepts]

/-- Settles O28: the acceptance table line by line, then the two cases of a step without RESET on its line. -/
theorem heldEventsStayOffered : Obligations.HeldEventsStayOffered := by
  refine ⟨fun s => ⟨rfl, accepts_out_iff, fun w => ?_, fun w => ?_⟩, fun s hr ho => ?_,
    fun s pre post o => step_of_first_acceptable⟩
  · simp [accepts]
  · simp [accepts]
  · exact step_of_none hr (takeFirst_eq_none.mpr ho)

/-- Settles O27: a word that decodes to a row is acceptable, and its effect is the row. -/
theorem stepRunsTheDecodedInstruction : Obligations.StepRunsTheDecodedInstruction := by
  intro s pre post w i hr ho hpre hd
  rw [step_of_first_acceptable hr ho hpre (accepts_of_decode hd)]
  exact runWord_of_instr (s := { s with offers := pre ++ post }) hd

/-! ### RESET and OUT (R65, R255, R280) -/

/-- Settles O29. -/
theorem resetWinsOverEveryEvent : Obligations.ResetWinsOverEveryEvent := by
  intro s hr
  exact ⟨resetByLine s, if_pos hr, by simp⟩

/-- Settles O30. -/
theorem resetIsAcceptedInEveryPhase : Obligations.ResetIsAcceptedInEveryPhase := by
  intro s pre post hr ho hpre
  exact ⟨_, step_of_first_acceptable hr ho hpre rfl, by simp [statusWord, errCode, phaseCode]⟩

theorem takeOut_of_cons {s : State} {b : Byte} {q : List Byte} (h : s.outq = b :: q) :
    takeOut s = { s with outq := q, taken := s.taken ++ [b] } := by
  simp only [takeOut, h]

/-- Settles O31. -/
theorem outTakesTheHead : Obligations.OutTakesTheHead := by
  refine ⟨fun s pre post b q hr ho hpre hq => ⟨by rw [outBeat, hq, List.head?_cons], ?_⟩,
    fun s hq => by simp [accepts, hq]⟩
  rw [step_of_first_acceptable hr ho hpre (accepts_out_iff.mpr (by simp [hq]))]
  exact congrArg Host.Outcome.next (takeOut_of_cons (s := { s with offers := pre ++ post }) hq)

/-! ### STATUS (R36, R41) -/

/-- The STATUS word as a sum: each field above the ones below it. -/
theorem statusWord_toNat (s : State) :
    (statusWord s).toNat =
      s.errInfo.toNat * 32 + (errCode s.err).toNat * 8 + s.done.toNat * 4 + (phaseCode s.phase).toNat := by
  simp only [statusWord, toNat_append_eq_add, BitVec.toNat_ofBool]
  omega

theorem statusWord_phase (s : State) : (statusWord s).extractLsb' 0 2 = phaseCode s.phase := by
  have hphase := (phaseCode s.phase).isLt
  apply BitVec.eq_of_toNat_eq
  rw [BitVec.extractLsb'_toNat, Nat.shiftRight_eq_div_pow, statusWord_toNat]
  omega

theorem statusWord_done (s : State) : (statusWord s).getLsbD 2 = s.done := by
  simp only [statusWord, BitVec.getLsbD_append]
  cases s.done <;> rfl

theorem statusWord_err (s : State) : (statusWord s).extractLsb' 3 2 = errCode s.err := by
  have hphase := (phaseCode s.phase).isLt
  have hdone := Bool.toNat_lt s.done
  have herr := (errCode s.err).isLt
  apply BitVec.eq_of_toNat_eq
  rw [BitVec.extractLsb'_toNat, Nat.shiftRight_eq_div_pow, statusWord_toNat]
  omega

theorem statusWord_errInfo (s : State) : (statusWord s).extractLsb' 5 8 = s.errInfo := by
  have hphase := (phaseCode s.phase).isLt
  have hdone := Bool.toNat_lt s.done
  have herr := (errCode s.err).isLt
  have hinfo := Byte.toNat_lt s.errInfo
  apply BitVec.eq_of_toNat_eq
  rw [BitVec.extractLsb'_toNat, Nat.shiftRight_eq_div_pow, statusWord_toNat]
  omega

/-- Settles O33. -/
theorem statusWordFields : Obligations.StatusWordFields := by
  intro s
  rw [statusWord_phase, statusWord_err]
  refine ⟨?_, statusWord_done s, ?_, statusWord_errInfo s⟩
  · cases s.phase <;> rfl
  · cases s.err <;> rfl

/-- Settles O34. -/
theorem resetStateIsAsStated : Obligations.ResetStateIsAsStated := ⟨rfl, rfl, rfl, rfl, rfl, rfl, rfl, rfl⟩

end Sys2Proof.Machine

/-! PROOFS. The effect of a word, whatever it decodes to: it keeps `WS_SET` and the bytes taken, appends to OUTQ, and changes PHASE only
as R213 lists. What every step keeps follows from that, and from the effects of OUT and RESET. That a word does not look at a part of
the state is the statement that it commutes with a change of that part. -/

namespace Sys2Proof.Machine

/-! ### What a word does to PHASE, to the output and to `WS_SET` -/

/-- The changes of PHASE in R213: none, the start of a session, its normal end, a fault. -/
def PhaseChange (s t : State) : Prop :=
  t.phase = s.phase ∨
  (s.phase = .idle ∧ (t.phase = .enc ∨ t.phase = .dec) ∧ t.done = false) ∨
  ((s.phase = .enc ∨ s.phase = .dec) ∧ t.phase = .idle ∧ t.done = true) ∨
  (s.phase = .dec ∧ t.phase = .fault ∧ t.err ≠ .none)

theorem PhaseChange.starts {s t : State} (hs : s.phase = .idle) (ht : t.phase = .enc ∨ t.phase = .dec)
    (hd : t.done = false) : PhaseChange s t := .inr (.inl ⟨hs, ht, hd⟩)

theorem PhaseChange.ends {s t : State} (hs : s.phase = .enc ∨ s.phase = .dec) (ht : t.phase = .idle)
    (hd : t.done = true) : PhaseChange s t := .inr (.inr (.inl ⟨hs, ht, hd⟩))

theorem PhaseChange.faults {s t : State} (hs : s.phase = .dec) (ht : t.phase = .fault) (he : t.err ≠ .none) :
    PhaseChange s t := .inr (.inr (.inr ⟨hs, ht, he⟩))

/-- What every word has in common. -/
structure WordEffect (s t : State) : Prop where
  /-- `WS_SET` is as it was (R78) -/
  wsSet : t.wsSet = s.wsSet
  /-- the host has taken no byte -/
  taken : t.taken = s.taken
  /-- OUTQ is extended at its tail (R64) -/
  output : ∃ e, t.outq = s.outq ++ e
  /-- PHASE changes as R213 lists -/
  phase : PhaseChange s t

/-- An effect that keeps OUTQ. -/
theorem WordEffect.silent {s t : State} (hw : t.wsSet = s.wsSet) (ht : t.taken = s.taken) (ho : t.outq = s.outq)
    (hp : PhaseChange s t) : WordEffect s t := ⟨hw, ht, ⟨[], by rw [ho, List.append_nil]⟩, hp⟩

theorem WordEffect.refl (s : State) : WordEffect s s := .silent rfl rfl rfl (.inl rfl)

theorem inPhase_wordEffect {p : Phase} {s t : State} {f : State → Result}
    (hf : s.phase = p → f s = .next t → WordEffect s t) (h : inPhase p s f = .next t) : WordEffect s t := by
  rcases inPhase_cases h with ⟨hp, h⟩ | ⟨-, h⟩
  · exact hf hp h
  · injection h with h
    exact h ▸ WordEffect.refl s

theorem encodeBlock_wordEffect {n : Nat} {s t : State} (h : encodeBlock n s = .next t) : WordEffect s t := by
  obtain ⟨_, _, e, _, rfl⟩ := encodeBlock_next h
  exact ⟨rfl, rfl, ⟨e, rfl⟩, .inl rfl⟩

theorem storeRaw_wordEffect {b : Byte} {s t : State} (h : storeRaw b s = .next t) : WordEffect s t := by
  rcases storeRaw_next h with ⟨-, rfl⟩ | ⟨-, rfl⟩ | ⟨-, h⟩
  · exact .silent rfl rfl rfl (.inl rfl)
  · exact .silent rfl rfl rfl (.inl rfl)
  · obtain ⟨_, _, e, _, rfl⟩ := encodeBlock_next h
    exact ⟨rfl, rfl, ⟨e, rfl⟩, .inl rfl⟩

theorem closeLine_outq (s : State) : ∃ e, (closeLine s).outq = s.outq ++ e := by
  rw [closeLine_eq]
  exact ⟨_, rfl⟩

theorem finishEncode_wordEffect {s t : State} (hp : s.phase = .enc) (h : finishEncode s = .next t) : WordEffect s t := by
  rcases finishEncode_next h with ⟨-, rfl⟩ | ⟨-, u, hu, rfl⟩
  · exact ⟨by simp, by simp, closeLine_outq s, .ends (.inl hp) rfl rfl⟩
  · obtain ⟨hw, ht, ⟨e, he⟩, -⟩ := encodeBlock_wordEffect hu
    obtain ⟨e', he'⟩ := closeLine_outq u
    refine ⟨by simpa using hw, by simpa using ht, ⟨e ++ e', ?_⟩, .ends (.inl hp) rfl rfl⟩
    rw [he', he, List.append_assoc]

theorem storeChar_wordEffect {c : Byte} {s t : State} (hp : s.phase = .dec) (h : storeChar c s = .next t) :
    WordEffect s t := by
  rw [storeChar_eq] at h
  split at h
  · obtain ⟨q, -, ⟨d, -, -, rfl⟩ | ⟨v, -, -, rfl⟩ | ⟨v, -, -, rfl⟩⟩ := decodeBlock_next h
    · exact .silent rfl rfl rfl (.faults hp rfl (by simp))
    · exact .silent rfl rfl rfl (.faults hp rfl (by simp))
    · rw [decodeGoodBlock_eq]
      exact ⟨rfl, rfl, ⟨_, rfl⟩, .inl rfl⟩
  · injection h with h
    subst h
    exact .silent rfl rfl rfl (.inl rfl)

theorem finishDecode_wordEffect {s t : State} (hp : s.phase = .dec) (h : finishDecode s = .next t) : WordEffect s t := by
  unfold finishDecode at h
  split at h <;> injection h with h <;> subst h
  · exact .silent rfl rfl rfl (.ends (.inr hp) rfl rfl)
  · exact .silent rfl rfl rfl (.faults hp rfl (by simp))

theorem exec_wordEffect {i : Instr} {s t : State} (h : exec i s = .next t) : WordEffect s t := by
  rcases instr_cases i with ⟨kb, ki, rfl⟩ | ⟨kb, ki, rfl⟩ | ⟨b, rfl⟩ | rfl | rfl | ⟨-, c, k, hc⟩
  · refine inPhase_wordEffect (f := fun s => .next { sessionInit kb ki s with phase := .enc }) (fun hp h => ?_) h
    injection h with h
    subst h
    exact .silent rfl rfl rfl (.starts hp (.inl rfl) rfl)
  · refine inPhase_wordEffect (f := fun s => .next { sessionInit kb ki s with phase := .dec }) (fun hp h => ?_) h
    injection h with h
    subst h
    exact .silent rfl rfl rfl (.starts hp (.inr rfl) rfl)
  · exact inPhase_wordEffect (fun _ => storeRaw_wordEffect) h
  · exact inPhase_wordEffect finishEncode_wordEffect h
  · exact inPhase_wordEffect finishDecode_wordEffect h
  · rw [exec_of_char hc] at h
    split at h
    · injection h with h
      exact h ▸ WordEffect.refl s
    · exact inPhase_wordEffect storeChar_wordEffect h

theorem runWord_wordEffect {w : PortWord} {s t : State} (h : runWord w s = .next t) : WordEffect s t := by
  unfold runWord at h
  split at h
  · exact exec_wordEffect h
  · cases (skipWhitespace_eq s).symm.trans h
    exact WordEffect.refl s
  · injection h with h
    exact h ▸ WordEffect.refl s

/-! ### What a step keeps -/

/-- What a step leads to: the state after RESET on its line, the same state, or the effect of the event it accepts. -/
theorem step_next_cases {s t : State} (h : step s = .next t) :
    (s.resetLine = true ∧ t = resetByLine s) ∨
    (s.resetLine = false ∧ t = s) ∨
    ∃ rest,
      (∃ w, runWord w { s with offers := rest } = .next t) ∨
      t = takeOut { s with offers := rest } ∨
      (nextOffer s = some (.reset, rest) ∧ .reset ∈ s.offers ∧ t = resetCore { s with offers := rest }) := by
  rcases step_cases s with ⟨hline, hs⟩ | ⟨hline, -, hs⟩ | ⟨-, o, rest, hn, -, hoffered, hs⟩
  · cases hs.symm.trans h
    exact .inl ⟨hline, rfl⟩
  · cases hs.symm.trans h
    exact .inr (.inl ⟨hline, rfl⟩)
  · have ho := hs.symm.trans h
    refine .inr (.inr ⟨rest, ?_⟩)
    cases o with
    | word w => exact .inl ⟨w, ho⟩
    | out =>
      cases ho
      exact .inr (.inl rfl)
    | reset =>
      cases ho
      exact .inr (.inr ⟨hn, hoffered, rfl⟩)

/-- Settles O38. -/
theorem stepKeepsTheWhitespaceSet : Obligations.StepKeepsTheWhitespaceSet := by
  intro s t h
  rcases step_next_cases h with ⟨-, rfl⟩ | ⟨-, rfl⟩ | ⟨rest, ⟨w, hw⟩ | rfl | ⟨-, -, rfl⟩⟩
  · rfl
  · rfl
  · exact (runWord_wordEffect hw).wsSet
  · exact takeOut_wsSet _
  · rfl

/-- Settles O40: only a word changes PHASE where the step is no RESET. -/
theorem phaseTransitionsAreThoseListed : Obligations.PhaseTransitionsAreThoseListed := by
  intro s t h hr hno
  rcases step_next_cases h with ⟨hline, -⟩ | ⟨-, rfl⟩ | ⟨rest, ⟨w, hw⟩ | rfl | ⟨hn, -⟩⟩
  · cases hr.symm.trans hline
  · exact .inl rfl
  · exact (runWord_wordEffect hw).phase
  · exact .inl (takeOut_phase _)
  · exact absurd hn (hno rest)

/-- OUT moves the head of OUTQ behind the bytes taken. -/
theorem takeOut_taken_outq (s : State) : (takeOut s).taken ++ (takeOut s).outq = s.taken ++ s.outq := by
  cases hq : s.outq with
  | nil => simp [takeOut, hq]
  | cons b q => simp [takeOut_of_cons hq]

/-- Settles O41. -/
theorem outputIsAppendOnly : Obligations.OutputIsAppendOnly := by
  intro s t h
  rcases step_next_cases h with ⟨hline, rfl⟩ | ⟨-, rfl⟩ | ⟨rest, ⟨w, hw⟩ | rfl | ⟨-, hoffered, rfl⟩⟩
  · exact .inr ⟨.inl hline, rfl, rfl⟩
  · exact .inl ⟨[], (List.append_nil _).symm⟩
  · obtain ⟨-, htaken, ⟨e, he⟩, -⟩ := runWord_wordEffect hw
    exact .inl ⟨e, by rw [htaken, he, List.append_assoc]⟩
  · exact .inl ⟨[], by rw [takeOut_taken_outq, List.append_nil]⟩
  · exact .inr ⟨.inr hoffered, rfl, rfl⟩

/-! ### OUT and the words (R255) -/

theorem runWord_onto (w : PortWord) {g : Background} {s : State} (hw : s.wsSet = g.wsSet) :
    runWord w (onto g s) = mapNext (onto g) (runWord w s) := by
  simp only [runWord, onto_wsSet, onto_phase, ← hw, skipWhitespace_eq]
  split
  · exact exec_onto _ fun _ => hw
  · rfl
  · rfl

/-- Settles O32: taking the byte changes the background of the word, on which its effect does not depend. -/
theorem outCommutesWithEveryWord : Obligations.OutCommutesWithEveryWord := by
  intro s t w hq h
  obtain ⟨b, q, hbq⟩ := List.exists_cons_of_ne_nil hq
  have hs : s = onto { outq := b :: q, taken := s.taken, wsSet := s.wsSet } { s with outq := [] } := by
    simp [onto, ← hbq]
  have hout : takeOut s = onto { outq := q, taken := s.taken ++ [b], wsSet := s.wsSet } { s with outq := [] } := by
    simp [takeOut_of_cons hbq, onto]
  rw [hs, runWord_onto w rfl] at h
  obtain ⟨v, hv, rfl⟩ := mapNext_eq_next h
  rw [hout, runWord_onto w rfl, hv]
  rfl

/-! ### The registers of the other direction (R40) -/

/-- The state with other values in the decoder's own registers. -/
def withDecoderRegs (q : QuadBuf) (n : BitVec 2) (p : BitVec 3) (s : State) : State :=
  { s with quad := q, nch := n, pad := p }

/-- The state with other values in the encoder's own registers. -/
def withEncoderRegs (b : ChunkBuf) (n : BitVec 2) (c : BitVec 7) (s : State) : State :=
  { s with buf := b, cnt := n, col := c }

/-- An instruction answers the next state with a change where it answers the next state without it. -/
theorem exec_next_of_mapNext {i : Instr} {f : State → State} {s t : State} (hf : exec i (f s) = mapNext f (exec i s))
    (h : exec i s = .next t) : exec i (f s) = .next (f t) := by
  rw [hf, h, mapNext_next]

/-- What keeps PHASE commutes with acceptance, if it commutes with the operation. -/
theorem inPhase_map {p : Phase} {f : State → State} {s : State} {op : State → Result} (hp : (f s).phase = s.phase)
    (h : op (f s) = mapNext f (op s)) : inPhase p (f s) op = mapNext f (inPhase p s op) := by
  simp only [inPhase, hp, h, apply_ite (mapNext f), mapNext_next]

section
variable (q : QuadBuf) (n : BitVec 2) (p : BitVec 3)

theorem emitChar_withDecoderRegs (c : Byte) (s : State) :
    emitChar c (withDecoderRegs q n p s) = withDecoderRegs q n p (emitChar c s) := by
  simp only [emitChar, apply_ite (withDecoderRegs q n p)]
  rfl

theorem encodeBlock_withDecoderRegs (m : Nat) (s : State) :
    encodeBlock m (withDecoderRegs q n p s) = mapNext (withDecoderRegs q n p) (encodeBlock m s) := by
  cases hc : chunkBytes m s.buf with
  | none => rw [encodeBlock_of_absent hc, encodeBlock_of_absent (s := withDecoderRegs q n p s) hc, mapNext_fault]
  | some r =>
    rw [encodeBlock_of_chunk hc, encodeBlock_of_chunk (s := withDecoderRegs q n p s) hc, mapNext_next]
    have hk : ∀ k : BitVec 7, { withDecoderRegs q n p s with k := k } = withDecoderRegs q n p { s with k := k } :=
      fun _ => rfl
    simp only [hk, emitChar_withDecoderRegs]
    rfl

theorem storeRaw_withDecoderRegs (b : Byte) (s : State) :
    storeRaw b (withDecoderRegs q n p s) = mapNext (withDecoderRegs q n p) (storeRaw b s) := by
  simp only [storeRaw_eq, apply_ite (mapNext (withDecoderRegs q n p)), ← encodeBlock_withDecoderRegs]
  rfl

theorem closeLine_withDecoderRegs (s : State) :
    closeLine (withDecoderRegs q n p s) = withDecoderRegs q n p (closeLine s) := by
  simp only [closeLine_eq]
  rfl

theorem finishEncode_withDecoderRegs (s : State) :
    finishEncode (withDecoderRegs q n p s) = mapNext (withDecoderRegs q n p) (finishEncode s) := by
  have hcnt : (withDecoderRegs q n p s).cnt = s.cnt := rfl
  by_cases h : s.cnt = 0#2
  · simp only [finishEncode, hcnt, if_pos h, closeLine_withDecoderRegs, mapNext_next]
  · simp only [finishEncode, hcnt, if_neg h, encodeBlock_withDecoderRegs]
    cases encodeBlock s.cnt.toNat s with
    | next t => simp only [mapNext_next, closeLine_withDecoderRegs]
    | fault r => rfl
    | refused r => rfl

theorem exec_withDecoderRegs {i : Instr} (hi : i.phase = .enc) (s : State) :
    exec i (withDecoderRegs q n p s) = mapNext (withDecoderRegs q n p) (exec i s) := by
  rcases instr_cases i with ⟨kb, ki, rfl⟩ | ⟨kb, ki, rfl⟩ | ⟨b, rfl⟩ | rfl | rfl | ⟨hdec, -⟩
  · cases hi
  · cases hi
  · exact inPhase_map rfl (storeRaw_withDecoderRegs q n p b s)
  · exact inPhase_map rfl (finishEncode_withDecoderRegs q n p s)
  · cases hi
  · cases hi.symm.trans hdec

end

/-- Settles O42: the rows of phase ENC commute with every change of QUAD, NCH and PAD, the one to the values they have included. -/
theorem encoderIgnoresDecoderRegisters : Obligations.EncoderIgnoresDecoderRegisters := by
  intro s t i q n p hi h
  have hsame := exec_next_of_mapNext (exec_withDecoderRegs s.quad s.nch s.pad hi s) h
  have ht : t = withDecoderRegs s.quad s.nch s.pad t := by
    injection h.symm.trans hsame
  exact ⟨(congrArg State.quad ht :), (congrArg State.nch ht :), (congrArg State.pad ht :),
    exec_next_of_mapNext (exec_withDecoderRegs q n p hi s) h⟩

section
variable (b : ChunkBuf) (n : BitVec 2) (c : BitVec 7)

theorem decodeBlock_withEncoderRegs (s : State) :
    decodeBlock (withEncoderRegs b n c s) = mapNext (withEncoderRegs b n c) (decodeBlock s) := by
  have hquad : (withEncoderRegs b n c s).quad = s.quad := rfl
  have hws : (withEncoderRegs b n c s).wsSet = s.wsSet := rfl
  have hpad : (withEncoderRegs b n c s).pad = s.pad := rfl
  simp only [decodeBlock, hquad, hws, hpad]
  cases s.quad.chars with
  | none => rfl
  | some q =>
    dsimp only
    cases blockValues s.wsSet q with
    | none => dsimp only; cases firstInvalid s.wsSet q <;> rfl
    | some v =>
      simp only [decodeGoodBlock_eq, apply_ite (mapNext (withEncoderRegs b n c))]
      rfl

theorem storeChar_withEncoderRegs (d : Byte) (s : State) :
    storeChar d (withEncoderRegs b n c s) = mapNext (withEncoderRegs b n c) (storeChar d s) := by
  simp only [storeChar_eq, apply_ite (mapNext (withEncoderRegs b n c)), ← decodeBlock_withEncoderRegs]
  rfl

theorem finishDecode_withEncoderRegs (s : State) :
    finishDecode (withEncoderRegs b n c s) = mapNext (withEncoderRegs b n c) (finishDecode s) := by
  simp only [finishDecode, apply_ite (mapNext (withEncoderRegs b n c))]
  rfl

theorem exec_withEncoderRegs {i : Instr} (hi : i.phase = .dec) (s : State) :
    exec i (withEncoderRegs b n c s) = mapNext (withEncoderRegs b n c) (exec i s) := by
  rcases instr_cases i with ⟨kb, ki, rfl⟩ | ⟨kb, ki, rfl⟩ | ⟨d, rfl⟩ | rfl | rfl | ⟨-, d, k, hd⟩
  · cases hi
  · cases hi
  · cases hi
  · cases hi
  · exact inPhase_map rfl (finishDecode_withEncoderRegs b n c s)
  · rw [exec_of_char hd, exec_of_char hd]
    split
    · rfl
    · exact inPhase_map rfl (storeChar_withEncoderRegs b n c d s)

end

/-- Settles O43: the rows of phase DEC commute with every change of BUF, CNT and COL. -/
theorem decoderIgnoresEncoderRegisters : Obligations.DecoderIgnoresEncoderRegisters := by
  intro s t i b n c hi h
  have hsame := exec_next_of_mapNext (exec_withEncoderRegs s.buf s.cnt s.col hi s) h
  have ht : t = withEncoderRegs s.buf s.cnt s.col t := by
    injection h.symm.trans hsame
  exact ⟨(congrArg State.buf ht :), (congrArg State.cnt ht :), (congrArg State.col ht :),
    exec_next_of_mapNext (exec_withEncoderRegs b n c hi s) h⟩

end Sys2Proof.Machine

/-! PROOFS. Decode sessions of what an encode session emitted (R191), and the empty input (R152). Whatever the keys, the decoder finds
blocks of alphabet characters with the markers of the bytes they lack, so it ends normally with as many bytes; under the same keys
they are the bytes of the input. -/

namespace Sys2Proof.Machine

open Sys2Proof.Safety

/-! ### The same keys -/

/-- Settles O46. -/
theorem roundTrip : Obligations.RoundTrip := by
  intro s t s' t' S out kb ki hrun ho hws hrun'
  obtain rfl := encodeRun_output hrun ho
  refine ⟨decodeRun_encodeFunction hws hrun', ?_⟩
  have hend := (decodeRun_ends hrun').ended
  rwa [decodeFunction_encodeFunction hws] at hend

/-! ### Other keys -/

theorem blockBytes_length (kb ki j : Nat) (v : SymBlock) : (blockBytes kb ki j v).length = 3 := rfl

/-- An encoded block is good under any keys, and its markers leave the number of bytes that it encodes. -/
theorem decodeBlocks_blockChars_any_keys {m : Nat} (h1 : 1 ≤ m) (h3 : m ≤ 3) (ws : WsSet) (kb ki kb' ki' j j' : Nat)
    (r : RawBlock) (rest : List Byte) :
    ∃ bytes : List Byte, bytes.length = m ∧
      decodeBlocks ws kb' ki' j' (blockChars kb ki j m r ++ rest) =
        (bytes ++ (decodeBlocks ws kb' ki' (j' + 4) rest).1, (decodeBlocks ws kb' ki' (j' + 4) rest).2) := by
  have hm := markerCount_encodedBlock h1 h3 kb ki j r
  have hgood := decodeBlocks_of_good (kb := kb') (ki := ki') (j := j') (rest := rest)
    (firstInvalid_encodedBlock ws kb ki j m r) (by omega)
  refine ⟨_, ?_, hgood⟩
  rw [List.length_take, blockBytes_length]
  omega

theorem decodeBlocks_encodeChars_any_keys (ws : WsSet) (kb ki kb' ki' : Nat) : ∀ (j j' : Nat) (S : List Byte),
    ∃ S' : List Byte, S'.length = S.length ∧ decodeBlocks ws kb' ki' j' (encodeChars kb ki j S) = (S', .done)
  | _, _, [] => ⟨[], rfl, rfl⟩
  | j, j', [x] => by
    obtain ⟨bytes, hlen, h⟩ := decodeBlocks_blockChars_any_keys (m := 1) (by decide) (by decide) ws kb ki kb' ki' j j'
      { b0 := x, b1 := 0#8, b2 := 0#8 } []
    rw [encodeChars, ← List.append_nil (blockChars ..), h]
    exact ⟨bytes ++ [], by simpa using hlen, rfl⟩
  | j, j', [x, y] => by
    obtain ⟨bytes, hlen, h⟩ := decodeBlocks_blockChars_any_keys (m := 2) (by decide) (by decide) ws kb ki kb' ki' j j'
      { b0 := x, b1 := y, b2 := 0#8 } []
    rw [encodeChars, ← List.append_nil (blockChars ..), h]
    exact ⟨bytes ++ [], by simpa using hlen, rfl⟩
  | j, j', x :: y :: z :: S => by
    obtain ⟨S', hS', hrest⟩ := decodeBlocks_encodeChars_any_keys ws kb ki kb' ki' (j + 4) (j' + 4) S
    obtain ⟨bytes, hlen, h⟩ := decodeBlocks_blockChars_any_keys (m := 3) (by decide) (by decide) ws kb ki kb' ki' j j'
      { b0 := x, b1 := y, b2 := z } (encodeChars kb ki (j + 4) S)
    rw [hrest] at h
    refine ⟨bytes ++ S', ?_, h⟩
    rw [List.length_append, hlen, hS', Nat.add_comm]
    rfl

/-- Settles O47. -/
theorem wrongKeysEndNormally : Obligations.WrongKeysEndNormally := by
  intro s t s' t' S out kb ki kb' ki' hrun ho hws hrun'
  obtain rfl := encodeRun_output hrun ho
  obtain ⟨S', hlen, hdec⟩ := decodeBlocks_encodeChars_any_keys s'.wsSet kb.toNat ki.toNat kb'.toNat ki'.toNat 0 0 S
  obtain ⟨hout, hend, -, -⟩ := decodeRun_ends hrun'
  rw [decodeFunction, filter_encodeFunction hws, hdec] at hout hend
  exact ⟨hend, S', hout, hlen⟩

/-! ### The empty input -/

/-- Settles O53: the command starts the session at column 0, where EOS emits nothing. -/
theorem emptyInputEmitsNothing : Obligations.EmptyInputEmitsNothing := by
  intro s kb ki h
  have hstart := encodeSessionStart_encodesRest s.wsSet s.background kb ki []
  have heos := run_encEos hstart.noReset hstart.phase hstart.offered (if_pos hstart.cnt)
  refine ⟨_, ⟨h, (run_succ (step_command s.wsSet h)).trans heos⟩, ?_, ?_, rfl, rfl⟩
  · simp [closeLine_eq, onto, State.background, sessionStart, State.reset]
  · have hkb : (kb.setWidth 7).toNat = kb.toNat := BitVec.toNat_setWidth_of_le (by decide)
    simpa [onto, sessionStart] using hkb

end Sys2Proof.Machine
